-- ==== Sys2Proof/Word.lean ====
section
/-! DEFINITION. The value types of the block: binary32 patterns, the two kinds of stereo frame, packets and voice
indices (spec/00_scope.md R7, R8, R11; spec/30_encoding.md R94). No arithmetic stands here: it is in Machine/Arith.lean
and Machine/Float32.lean, where a repair can mend it. -/
namespace Sys2Proof

/-- A binary32 bit pattern (R11). -/
abbrev F32 := BitVec 32

/-- A voice index in 0..7 (R5 `NUM_VOICES`, R61). -/
abbrev Voice := Fin 8

/-- One producer-side stereo frame, two's complement 16-bit halves (R94). -/
structure Frame16 where
  left : BitVec 16
  right : BitVec 16
deriving DecidableEq, Repr, Inhabited

/-- One consumer-side stereo frame, two binary32 patterns (R36, R37). -/
structure Frame32 where
  left : F32
  right : F32
deriving DecidableEq, Repr, Inhabited

/-- A packet: its frames, frame 0 first (R94). -/
abbrev Packet := List Frame16

/-- The stereo frame (+0.0, +0.0), the spec's equilibrium on the consumer side (spec/00_scope.md glossary, R200). -/
def Frame32.zero : Frame32 := ⟨0#32, 0#32⟩

end Sys2Proof
end

