-- ==== Sys2Proof/Machine/Arith.lean ====
section
/-! DEFINITION. The integer primitives of spec/00_scope.md R8. -/
namespace Sys2Proof.Machine

/-- `x >> n` on a signed value: `floor(x / 2^n)` (R8; Int division by a positive number is floor division). -/
def asr (x : Int) (n : Nat) : Int := x / 2 ^ n

/-- `clamp(x, lo, hi)` (R8). -/
def clamp (x lo hi : Int) : Int := min hi (max lo x)

/-- `sat16(x)` (R8). -/
def sat16 (x : Int) : Int := min 32767 (max (-32768) x)

/-- A signed 16-bit value as its pattern (R8); exact for a value in range. -/
def toI16 (x : Int) : BitVec 16 := BitVec.ofInt 16 x

end Sys2Proof.Machine
end

