-- ==== Sys2Proof/Config.lean ====
section
/-! DEFINITION. What an implementation fixes: the literals of spec/00_scope.md R5, the parameters of R6 (a record held in
State, fixed before reset and changed by no operation), and the values the spec leaves open, as bodiless constants. -/
namespace Sys2Proof.Config

/-- `MAX_GAIN` = 0x7E0, the bound of every stepped curve (R5; the spec's decision D5). -/
def maxGain : Nat := 2016

/-- `MAX_ATTACK` = 0x7E0, the attack saturation target (R5; D5). -/
def maxAttack : Nat := 2016

/-- `GAIN_STEP`, the linear delta (R5). -/
def gainStep : Int := 32

/-- `BENT_STEP`, the slow part of the bent line and the fade step (R5). -/
def bentStep : Int := 8

/-- `BENT_KNEE`, where the bent line slows down (R5). -/
def bentKnee : Int := 1536

/-- `SRC_RATE`, the producer's nominal tick rate (R5). -/
def srcRate : Nat := 32000

/-- `DAMP` as a binary32 pattern, the binary32 nearest to 0.99 (R5, R202). -/
def damp : F32 := 0x3F7D70A4#32

/-- The parameters of R6 and R38. They are data of a machine, not of this model: a claim about every state is a claim for
every choice of them. -/
structure Params where
  packetFrames : Nat
  queueCapacity : Nat
  hostRate : Nat
  ringFrames : Nat
  mixEnvShift : Nat
  mixVolShift : Nat
deriving DecidableEq, Repr

/-- The defaults of R6. -/
def Params.default : Params where
  packetFrames := 533
  queueCapacity := 4
  hostRate := 48000
  ringFrames := 2
  mixEnvShift := 11
  mixVolShift := 7

/-- The constraint column of R6. -/
abbrev Params.Legal (p : Params) : Prop :=
  1 ≤ p.packetFrames ∧ (1 ≤ p.queueCapacity ∧ p.queueCapacity ≤ 4) ∧ 1 ≤ p.hostRate ∧ 1 ≤ p.ringFrames

/-- `INTERP(ring, phase_num, HOST_RATE)`: the windowed-sinc kernel the source names and does not give
(spec/44_resampler.md R205, spec/93 U8). FREE VALUE: no body, so nothing about its results can be proved. Log entry 3. -/
opaque interp : List Frame32 → Nat → Nat → Frame32

/-- The sign bit and the 22 payload bits of the quiet NaN that a binary32 product answers on an invalid operation or a NaN
operand; IEEE 754 fixes neither. FREE VALUE, in no reachable state. Log entry 5. -/
opaque nanSignPayload : F32 → F32 → BitVec 23

/-- What reading a frame that a packet does not have gives (R33: such frames "hold no value"). FREE VALUE, in no reachable
state, where every packet has all its frames. Log entry 6. -/
opaque missingFrame : Nat → Frame16

end Sys2Proof.Config
end

