-- ==== Sys2Proof/Syntax.lean ====
section
/-! DEFINITION. The instructions: one constructor per row of spec/opcode_table.json (eleven commands of format CMD,
R81; three decoding cases of format ADSR16 and seven of format GAIN8, R99), the code words they are written in, and the rows
of the table as data. -/
namespace Sys2Proof

/-- The two agents (R12). -/
inductive Agent where
  | producer
  | consumer
deriving DecidableEq, Repr

/-- The operations of spec/30_encoding.md R81 and the ten decoding cases of KON named by R99. A voice is a natural
number here, so that the range check of R61 has something to refuse. In the ten cases `v` is the voice whose register holds
the word; the other operands are the word's fields (R82, R83). -/
inductive Instr where
  /-- `WRADSR v, imm16` (R114) -/
  | wradsr (v : Nat) (imm : BitVec 16)
  /-- `WRGAIN v, imm8` (R115) -/
  | wrgain (v : Nat) (imm : BitVec 8)
  /-- `KON v` (R130) -/
  | kon (v : Nat)
  /-- `KOFF v` (R131) -/
  | koff (v : Nat)
  /-- `RDENVX v` (R118) -/
  | rdenvx (v : Nat)
  /-- `WRMVOLL imm8` (R116) -/
  | wrmvoll (imm : BitVec 8)
  /-- `WRMVOLR imm8` (R117) -/
  | wrmvolr (imm : BitVec 8)
  /-- `ADV v` (R132) -/
  | adv (v : Nat)
  /-- `TICK`; its BRR samples are a side input, not an operand (R170, R175) -/
  | tick
  /-- `CLOSE` (R187) -/
  | close
  /-- `PULL n` (R206) -/
  | pull (n : BitVec 16)
  /-- `KON.DECAY`: ADSR word with enable 1 and `a_idx` 0xF (R99, R112 line 2) -/
  | konDecay (v : Nat) (sl : BitVec 3) (sr : BitVec 5) (d : BitVec 3)
  /-- `KON.ATTACK`: ADSR word with enable 1 and another `a_idx` (R99, R112 line 1) -/
  | konAttack (v : Nat) (sl : BitVec 3) (sr : BitVec 5) (d : BitVec 3) (a : BitVec 4)
  /-- `KON.GAINSEL`: ADSR word with enable 0 (R99, R112 lines 3 to 9) -/
  | konGainsel (v : Nat) (sl : BitVec 3) (sr : BitVec 5) (d : BitVec 3) (a : BitVec 4)
  /-- `KON.DIRECT`: gain byte with bit 7 = 0 (R99, R88) -/
  | konDirect (v : Nat) (level : BitVec 7)
  /-- `KON.HOLDMAX`: curve byte, decreasing mode 0 or 1, `gain_param` 0 (R99, R91) -/
  | konHoldmax (v : Nat) (mode0 : BitVec 1)
  /-- `KON.HOLDZERO`: curve byte, increasing mode 2 or 3, `gain_param` 0 (R99, R91) -/
  | konHoldzero (v : Nat) (mode0 : BitVec 1)
  /-- `KON.LINDECR`: curve byte, mode 0 (R99, R89) -/
  | konLindecr (v : Nat) (param : BitVec 5)
  /-- `KON.EXPDECR`: curve byte, mode 1 (R99, R89) -/
  | konExpdecr (v : Nat) (param : BitVec 5)
  /-- `KON.LININCR`: curve byte, mode 2 (R99, R89) -/
  | konLinincr (v : Nat) (param : BitVec 5)
  /-- `KON.BENTINCR`: curve byte, mode 3 (R99, R89) -/
  | konBentincr (v : Nat) (param : BitVec 5)
deriving DecidableEq, Repr

/-- A code word as it is presented to the block: a command word (R80), or the word of a voice's register, tagged with the
voice that holds it, whose decoding KON performs (R99; log entry 8). -/
inductive Code where
  | cmd (w : BitVec 32)
  | adsr16 (v : Nat) (w : BitVec 16)
  | gain8 (v : Nat) (b : BitVec 8)
deriving DecidableEq, Repr

/-- Why a code word is no instruction (R92, R225). -/
inductive Reject where
  /-- the word matches no row of R81 -/
  | badCommand
  /-- the voice that a register word is tagged with does not exist (R61) -/
  | voiceRange
deriving DecidableEq, Repr

/-- A row of the opcode table: a word `w` of `width` bits selects the row when `w & mask = pattern` (R81, R99). -/
structure OpRow where
  mnemonic : String
  width : Nat
  mask : Nat
  pattern : Nat
deriving DecidableEq, Repr

/-- The agent an operation belongs to (R81, column "agent"); the decoding cases are part of KON. -/
def Instr.agent : Instr → Agent
  | .pull _ => .consumer
  | .wradsr _ _ | .wrgain _ _ | .kon _ | .koff _ | .rdenvx _ | .wrmvoll _ | .wrmvolr _ | .adv _ | .tick | .close
  | .konDecay _ _ _ _ | .konAttack _ _ _ _ _ | .konGainsel _ _ _ _ _ | .konDirect _ _ | .konHoldmax _ _
  | .konHoldzero _ _ | .konLindecr _ _ | .konExpdecr _ _ | .konLinincr _ _ | .konBentincr _ _ => .producer

/-- The voice an operation names, if it names one (R81). -/
def Instr.voice? : Instr → Option Nat
  | .wradsr v _ | .wrgain v _ | .kon v | .koff v | .rdenvx v | .adv v
  | .konDecay v _ _ _ | .konAttack v _ _ _ _ | .konGainsel v _ _ _ _ | .konDirect v _ | .konHoldmax v _
  | .konHoldzero v _ | .konLindecr v _ | .konExpdecr v _ | .konLinincr v _ | .konBentincr v _ => some v
  | .wrmvoll _ | .wrmvolr _ | .tick | .close | .pull _ => none

end Sys2Proof
end

