-- ==== Sys2Proof/Machine/State.lean ====
section
/-! DEFINITION. The machine's state as plain data (spec/10_state.md), the model's own ports (log entries 7 to 11), the named
reasons to stop, and reset (R41, R250). -/
namespace Sys2Proof.Machine

open Sys2Proof

/-! ### Envelopes -/

/-- The nine curves (R25). `n` is the step count in 1..2048 and `level` a level in 0..2047; the spec keeps both as plain
integers, and `EnvInv` (Safety.lean) holds them to those ranges. -/
inductive Curve where
  | attack (n : Nat)
  | decay (n : Nat)
  | sustain (n : Nat)
  | linIncr (n : Nat)
  | bentIncr (n : Nat)
  | linDecr (n : Nat)
  | expDecr (n : Nat)
  | fade
  | static (level : Nat)
deriving DecidableEq, Repr

/-- The configuration snapshot that KON captures (R28); `srStep = none` is the table's `none` (R87). -/
structure EnvCfg where
  decayStep : Nat
  sustainLevel : Nat
  srStep : Option Nat
deriving DecidableEq, Repr

/-- A present envelope (R24). `gain` is an exact integer, which R29 holds to 16 signed bits (R26; log entry 12). -/
structure Env where
  curve : Curve
  gain : Int
  counter : Nat
  cfg : EnvCfg
deriving DecidableEq, Repr

/-- What ADV answers (R10). -/
inductive AdvResult where
  | sample (s : Int)
  | exhausted
deriving DecidableEq, Repr

/-- `DecodeAdsr`'s record (R110). -/
structure AdsrDecoded where
  sustainLevel : Nat
  srStep : Option Nat
  adsrEnable : Bool
  decayStep : Nat
  attackStep : Option Nat
deriving DecidableEq, Repr

/-- `DecodeGain`'s two cases (R111). -/
inductive GainDecoded where
  | direct (level : Nat)
  | curve (mode : BitVec 2) (step : Option Nat)
deriving DecidableEq, Repr

/-! ### The model's ports -/

/-- A command on the producer's port: its code word and the BRR samples presented with it (R175). -/
structure Issue where
  code : Code
  brr : Vector (BitVec 16) 8
deriving DecidableEq, Repr

/-- The values drawn at reset for the registers whose reset value is unspecified (R41, R42). -/
structure Draw where
  adsr : Vector (BitVec 16) 8
  gain : Vector (BitVec 8) 8
  mvolL : BitVec 8
  mvolR : BitVec 8
deriving DecidableEq, Repr

/-- What the environment lets happen next: which agent moves (R232; log entry 7), or a reset (R250; log entry 13). -/
inductive Turn where
  /-- the producer: its next command, with PUBLISH before and after it where it is due (R185) -/
  | producer
  /-- the producer: PUBLISH alone, if it is due (R185) -/
  | publish
  /-- the consumer: its next command whole, or one part of the PULL in progress -/
  | consumer
  /-- the consumer: one part of a PULL, which this turn may start (R70, R232) -/
  | consumerPart
  /-- reset, with the values drawn for the registers that have no reset value (R250, R42) -/
  | reset (draw : Draw)
deriving DecidableEq, Repr

/-- Where a PULL in progress stands (R203, R200); `k` is the number of SRC_NEXT calls of this CONVERT still to start after
the one named. -/
inductive PullStage where
  /-- between two CONVERT steps -/
  | idle
  /-- inside CONVERT, `k` SRC_NEXT calls to go -/
  | source (k : Nat)
  /-- inside SRC_NEXT: TryReceive answered none and `closed` is not read yet; `k` further calls to go -/
  | readClosed (k : Nat)
deriving DecidableEq, Repr

/-- A PULL in progress: CONVERT steps not finished, the stage, the values so far in order. -/
structure Pulling where
  left : Nat
  stage : PullStage
  out : List F32
deriving DecidableEq, Repr

/-! ### Reasons to stop -/

/-- The machine stops with a fault. -/
inductive Fault where
  /-- Raised by `construct` (Machine/Ops.lean) on `Fade` and `Sustain`, carrying the kind (R221, R225). No command
  reaches it (R148). Safe: the spec names the condition and the run ends. -/
  | constructError (kind : Curve)
deriving DecidableEq, Repr

/-- The machine refuses a command: the command is not executed and changes nothing (R220). The three refusals of R225 are
answered by an operation or a decoder; a turn records them and goes on (R229; log entry 17). The other two end the run. -/
inductive Refusal where
  /-- Raised by an arm of `exec` that has no meaning yet; no arm does. Safe. -/
  | notModelled (mnemonic : String)
  /-- Raised for a command word that matches no row (R92, R225 `Refused(BadCommand)`). Safe: the spec refuses. -/
  | badCommand
  /-- Raised by an operation on a voice that does not exist (R61, R225 `Refused(VoiceRange)`). Safe: the spec refuses. -/
  | voiceRange
  /-- Raised by TICK when `closed = 1` (R174, R225 `Refused(TickAfterClose)`). Safe: the spec refuses. -/
  | tickAfterClose
  /-- Raised by a turn whose command belongs to the other agent: there is no path for it (R230), and a second producer or
  consumer is outside the spec (R76, R257). Safe: the run ends. Log entry 9. -/
  | wrongAgent
deriving DecidableEq, Repr

/-! ### State -/

/-- The state of the block. Fields down to `params` are the spec's; the rest are the model's own ports. INVENTORY.md,
heading State, gives each with its rule, width and reset value. -/
structure State where
  /-- `ADSR[v]` (R20) -/
  adsr : Vector (BitVec 16) 8
  /-- `GAIN[v]` (R20) -/
  gain : Vector (BitVec 8) 8
  /-- `MVOL_L` (R31) -/
  mvolL : BitVec 8
  /-- `MVOL_R` (R31) -/
  mvolR : BitVec 8
  /-- `env[v]`, `none` is absent (R24) -/
  env : Vector (Option Env) 8
  /-- `pkt`: the frames written so far; its length is `pkt_fill` (R33) -/
  pkt : Packet
  /-- `q`, oldest first (R34) -/
  q : List Packet
  /-- `closed` (R34) -/
  closed : Bool
  /-- `cur_pkt` (R36) -/
  curPkt : Option Packet
  /-- `cur_idx` (R36) -/
  curIdx : Nat
  /-- `last_frame` (R36) -/
  lastFrame : Frame32
  /-- `ring`, oldest first (R37) -/
  ring : List Frame32
  /-- `phase_num` (R37) -/
  phaseNum : Nat
  /-- `HOST_RATE` (R38) and the other parameters of R6; no operation writes them -/
  params : Config.Params
  /-- the BRR samples presented with the command being executed (R175; the model's input port) -/
  brrIn : Vector (BitVec 16) 8
  /-- commands issued to the producer and not executed yet, oldest first (R12; the model's input port) -/
  prodIn : List Issue
  /-- command words issued to the consumer and not executed yet, oldest first (R12; the model's input port) -/
  consIn : List (BitVec 32)
  /-- the environment's schedule, next first (R232; the model's input port) -/
  turns : List Turn
  /-- the PULL the consumer is inside of, between two parts of it (R206; the model's own) -/
  pulling : Option Pulling
  /-- the last result of RDENVX (R93; the model's output port) -/
  envxOut : BitVec 8
  /-- the last result of ADV, `valid` in bit 16 (R95; the model's output port) -/
  advOut : BitVec 17
  /-- the last result of PULL (R98; the model's output port) -/
  buffer : List F32
  /-- the refusals so far, oldest first: the mark on the run that R220 asks of a model (log entry 17; the model's own) -/
  refusals : List Refusal
deriving DecidableEq, Repr

/-- What one operation or one step answers. -/
abbrev Result := Host.Outcome State Fault Refusal

/-! ### Reset -/

/-- Reset under any parameters and any draw (R41, R42, R250). The ports are empty or zero (log entry 2). -/
def State.resetWith (p : Config.Params) (d : Draw) : State where
  adsr := d.adsr
  gain := d.gain
  mvolL := d.mvolL
  mvolR := d.mvolR
  env := Vector.replicate 8 none
  pkt := []
  q := []
  closed := false
  curPkt := none
  curIdx := 0
  lastFrame := Frame32.zero
  ring := List.replicate p.ringFrames Frame32.zero
  phaseNum := 0
  params := p
  brrIn := Vector.replicate 8 0#16
  prodIn := []
  consIn := []
  turns := []
  pulling := none
  envxOut := 0#8
  advOut := 0#17
  buffer := []
  refusals := []

/-- The draw of `State.reset`: zero everywhere. DESIGN CHOICE (log entry 1): the spec gives these registers no reset value,
so a claim about reset is stated for `State.resetWith` and every draw. -/
def Draw.zero : Draw := ⟨Vector.replicate 8 0#16, Vector.replicate 8 0#8, 0#8, 0#8⟩

/-- The machine right after reset, at the default parameters of R6. -/
def State.reset : State := State.resetWith Config.Params.default Draw.zero

end Sys2Proof.Machine
end

