-- ==== Sys2Proof/Machine/Flags.lean ====
section
/-! DEFINITION. The five status predicates and the ENVX view: pure functions of state with no storage (spec/10_state.md R30,
R32). -/
namespace Sys2Proof.Machine

open Sys2Proof

/-- `pkt_fill`: the number of frames written (R33). -/
def State.pktFill (s : State) : Nat := s.pkt.length

/-- An envelope slot whose ADV answers `Exhausted` (R30). -/
def mutedEnv : Option Env → Bool
  | none => true
  | some e => e.curve == .fade && decide (e.gain ≤ 0)

/-- `Muted(v)` (R30). -/
def State.muted (s : State) (v : Voice) : Bool := mutedEnv s.env[v]

/-- `QueueFull` (R30). -/
def State.queueFull (s : State) : Bool := s.q.length == s.params.queueCapacity

/-- `QueueEmpty` (R30). -/
def State.queueEmpty (s : State) : Bool := s.q.isEmpty

/-- `PacketPending` (R30). -/
def State.packetPending (s : State) : Bool := s.pktFill == s.params.packetFrames

/-- The ENVX view of a slot: `clamp(gain >> 4, 0, 0x7F)`, 0 when absent (R32). -/
def envxOf : Option Env → BitVec 8
  | none => 0#8
  | some e => BitVec.ofInt 8 (clamp (asr e.gain 4) 0 0x7F)

/-- `ENVX[v]` (R32). -/
def State.envx (s : State) (v : Voice) : BitVec 8 := envxOf s.env[v]

/-- PUBLISH is enabled (R185). -/
def State.publishEnabled (s : State) : Bool :=
  s.packetPending && decide (s.q.length < s.params.queueCapacity) && !s.closed

/-- TICK is enabled (R174). -/
def State.tickEnabled (s : State) : Bool := decide (s.pktFill < s.params.packetFrames) && !s.closed

end Sys2Proof.Machine
end

