-- ==== Sys2Proof/Machine/Float32.lean ====
section
/-! DEFINITION. Binary32 (spec/00_scope.md R11): rounding to nearest, ties to even, with gradual underflow (R202), the
product `fmul32`, and the exact conversion `I16ToF32` (R201). -/
namespace Sys2Proof.Machine

open Sys2Proof

/-- Sign bit of a pattern. -/
def f32Sign (x : F32) : BitVec 1 := x.extractLsb' 31 1
/-- Exponent field. -/
def f32Exp (x : F32) : Nat := (x.extractLsb' 23 8).toNat
/-- Fraction field. -/
def f32Frac (x : F32) : Nat := (x.extractLsb' 0 23).toNat

/-- Not a number. -/
def f32IsNan (x : F32) : Bool := f32Exp x == 255 && f32Frac x != 0
/-- An infinity. -/
def f32IsInf (x : F32) : Bool := f32Exp x == 255 && f32Frac x == 0
/-- A zero of either sign. -/
def f32IsZero (x : F32) : Bool := f32Exp x == 0 && f32Frac x == 0

/-- The integer significand of a finite pattern: `|x| = f32Sig x * 2 ^ f32Scale x`. -/
def f32Sig (x : F32) : Nat := if f32Exp x = 0 then f32Frac x else 2 ^ 23 + f32Frac x
/-- The scale of a finite pattern. -/
def f32Scale (x : F32) : Int := (max (f32Exp x) 1 : Nat) - 150

/-- `m / 2^k` rounded to the nearest integer, ties to even (R11). -/
def roundShift (m k : Nat) : Nat :=
  let floor := m / 2 ^ k
  let rest := 2 * (m % 2 ^ k)
  if rest > 2 ^ k ∨ (rest = 2 ^ k ∧ floor % 2 = 1) then floor + 1 else floor

/-- The magnitude bits (exponent and fraction fields) of the binary32 nearest to `m * 2^e`, ties to even, with subnormals
kept and overflow to infinity (R11, R202). A significand rounded up to `2^24` carries into the exponent field. -/
def packMagnitude (m : Nat) (e : Int) : Nat :=
  if m = 0 then 0
  else
    let scale := max (e + Nat.log2 m - 23) (-149)
    let sig := if scale ≤ e then m * 2 ^ (e - scale).toNat else roundShift m (scale - e).toNat
    min ((scale + 149).toNat * 2 ^ 23 + sig) 0x7F800000

/-- A pattern from its sign bit and its magnitude bits. -/
def packF32 (sign : BitVec 1) (magnitude : Nat) : F32 := sign ++ BitVec.ofNat 31 magnitude

/-- The quiet NaN of an invalid product or a NaN operand: its sign and payload are a free value (log entry 5). -/
def nanF32 (a b : F32) : F32 :=
  (Config.nanSignPayload a b).extractLsb' 22 1 ++ 0xFF#8 ++ 1#1 ++ (Config.nanSignPayload a b).extractLsb' 0 22

/-- `fmul32(a, b)` (R11). -/
def fmul32 (a b : F32) : F32 :=
  let sign := f32Sign a ^^^ f32Sign b
  if f32IsNan a || f32IsNan b || (f32IsInf a && f32IsZero b) || (f32IsZero a && f32IsInf b) then nanF32 a b
  else if f32IsInf a || f32IsInf b then packF32 sign 0x7F800000
  else packF32 sign (packMagnitude (f32Sig a * f32Sig b) (f32Scale a + f32Scale b))

/-- `I16ToF32(s) = s / 32768`, exact (R11, R201). -/
def i16ToF32 (s : BitVec 16) : F32 :=
  packF32 (if s.toInt < 0 then 1#1 else 0#1) (packMagnitude s.toInt.natAbs (-15))

/-- `ToF32` of a packet frame (R201). -/
def toF32 (f : Frame16) : Frame32 := ⟨i16ToF32 f.left, i16ToF32 f.right⟩

/-- `Damp`: both channels times `DAMP`, one rounding each (R202). -/
def damp (f : Frame32) : Frame32 := ⟨fmul32 f.left Config.damp, fmul32 f.right Config.damp⟩

end Sys2Proof.Machine
end

