-- ==== Sys2Proof/WellFormed.lean ====
section
/-! DEFINITION. Which terms of Instr an encoding exists for: the voice range (R61) and the order in which the rows of a
format are tested (R99). -/
namespace Sys2Proof

/-- The voice, where there is one, is 0..7 (R61). -/
def Instr.voiceOk (i : Instr) : Bool :=
  match i.voice? with
  | some v => decide (v < 8)
  | none => true

/-- The operands are ones the row is reached with: `KON.ATTACK` is tested after `KON.DECAY`, and the four curve rows
after `KON.HOLDMAX` and `KON.HOLDZERO` (R99). -/
def Instr.caseOk : Instr → Bool
  | .konAttack _ _ _ _ a => a != 15#4
  | .konLindecr _ p | .konExpdecr _ p | .konLinincr _ p | .konBentincr _ p => p != 0#5
  | .wradsr _ _ | .wrgain _ _ | .kon _ | .koff _ | .rdenvx _ | .wrmvoll _ | .wrmvolr _ | .adv _ | .tick | .close
  | .pull _ | .konDecay _ _ _ _ | .konGainsel _ _ _ _ _ | .konDirect _ _ | .konHoldmax _ _ | .konHoldzero _ _ => true

/-- Well-formed: some code word stands for it. -/
abbrev Instr.WellFormed (i : Instr) : Prop := i.voiceOk = true ∧ i.caseOk = true

end Sys2Proof
end

