-- ==== Sys2Proof/Decode.lean ====
section
/-! DEFINITION. Decoding, total on every code word and refusing by name, then the encoder, from the encoding tables of
spec/30_encoding.md (R80 to R83, R92, R97, R99), and the opcode table as data (R81, R99). -/
namespace Sys2Proof

/-! ### Fields -/

/-- `op` of a command word, bits 31..28 (R80). -/
def opField (w : BitVec 32) : BitVec 4 := w.extractLsb' 28 4
/-- `z1`, bit 27, reserved (R80). -/
def z1Field (w : BitVec 32) : BitVec 1 := w.extractLsb' 27 1
/-- `voice`, bits 26..24 (R80). -/
def voiceField (w : BitVec 32) : BitVec 3 := w.extractLsb' 24 3
/-- `z2`, bits 23..16, reserved (R80). -/
def z2Field (w : BitVec 32) : BitVec 8 := w.extractLsb' 16 8
/-- `data`, bits 15..0 (R80). -/
def dataField (w : BitVec 32) : BitVec 16 := w.extractLsb' 0 16
/-- `data[7:0]`, a byte operand (R80). -/
def byteField (w : BitVec 32) : BitVec 8 := w.extractLsb' 0 8
/-- `data[15:8]`, 0 in a byte command (R80). -/
def highByteField (w : BitVec 32) : BitVec 8 := w.extractLsb' 8 8

/-- `sl_idx`, bits 15..13 of the ADSR word (R82). -/
def slField (w : BitVec 16) : BitVec 3 := w.extractLsb' 13 3
/-- `sr_idx`, bits 12..8 (R82). -/
def srField (w : BitVec 16) : BitVec 5 := w.extractLsb' 8 5
/-- `adsr_enable`, bit 7 (R82). -/
def enField (w : BitVec 16) : BitVec 1 := w.extractLsb' 7 1
/-- `d_idx`, bits 6..4 (R82). -/
def dField (w : BitVec 16) : BitVec 3 := w.extractLsb' 4 3
/-- `a_idx`, bits 3..0 (R82). -/
def aField (w : BitVec 16) : BitVec 4 := w.extractLsb' 0 4

/-- `direct_flag`, bit 7 of the gain byte: 1 when the level is NOT direct (R83). -/
def directFlag (b : BitVec 8) : BitVec 1 := b.extractLsb' 7 1
/-- `direct_level`, bits 6..0 (R83). -/
def levelField (b : BitVec 8) : BitVec 7 := b.extractLsb' 0 7
/-- `gain_mode`, bits 6..5 (R83). -/
def modeField (b : BitVec 8) : BitVec 2 := b.extractLsb' 5 2
/-- `gain_param`, bits 4..0 (R83). -/
def paramField (b : BitVec 8) : BitVec 5 := b.extractLsb' 0 5

/-! ### Decoding -/

/-- A command word (R80, R81). Every bit outside the row's operand fields must have the row's value; any other word is
`BadCommand` (R92). -/
def decodeCmd (w : BitVec 32) : Except Reject Instr :=
  let v := (voiceField w).toNat
  let noVoice := voiceField w = 0#3
  let noData := dataField w = 0#16
  let byteOnly := highByteField w = 0#8
  if z1Field w = 0#1 ∧ z2Field w = 0#8 then
    match (opField w).toNat with
    | 1 => .ok (.wradsr v (dataField w))
    | 2 => if byteOnly then .ok (.wrgain v (byteField w)) else .error .badCommand
    | 3 => if noData then .ok (.kon v) else .error .badCommand
    | 4 => if noData then .ok (.koff v) else .error .badCommand
    | 5 => if noData then .ok (.rdenvx v) else .error .badCommand
    | 6 => if noVoice ∧ byteOnly then .ok (.wrmvoll (byteField w)) else .error .badCommand
    | 7 => if noVoice ∧ byteOnly then .ok (.wrmvolr (byteField w)) else .error .badCommand
    | 8 => if noData then .ok (.adv v) else .error .badCommand
    | 9 => if noVoice ∧ noData then .ok .tick else .error .badCommand
    | 10 => if noVoice ∧ noData then .ok .close else .error .badCommand
    | 11 => if noVoice then .ok (.pull (dataField w)) else .error .badCommand
    | _ => .error .badCommand
  else .error .badCommand

/-- The ADSR16 rows, in file order (R99): which case of KON an ADSR word is. Total (R91). -/
def decodeAdsrCase (v : Nat) (w : BitVec 16) : Instr :=
  if enField w = 1#1 then
    if aField w = 15#4 then .konDecay v (slField w) (srField w) (dField w)
    else .konAttack v (slField w) (srField w) (dField w) (aField w)
  else .konGainsel v (slField w) (srField w) (dField w) (aField w)

/-- The GAIN8 rows, in file order (R99): which case of KON a gain byte is. Total (R91). -/
def decodeGainCase (v : Nat) (b : BitVec 8) : Instr :=
  if directFlag b = 0#1 then .konDirect v (levelField b)
  else if paramField b = 0#5 then
    if (modeField b).toNat < 2 then .konHoldmax v ((modeField b).extractLsb' 0 1)
    else .konHoldzero v ((modeField b).extractLsb' 0 1)
  else
    match (modeField b).toNat with
    | 0 => .konLindecr v (paramField b)
    | 1 => .konExpdecr v (paramField b)
    | 2 => .konLinincr v (paramField b)
    | _ => .konBentincr v (paramField b)

/-- The decoder: total on every code word, refusing by name (R91, R92, R61). -/
def decode : Code → Except Reject Instr
  | .cmd w => decodeCmd w
  | .adsr16 v w => if v < 8 then .ok (decodeAdsrCase v w) else .error .voiceRange
  | .gain8 v b => if v < 8 then .ok (decodeGainCase v b) else .error .voiceRange

/-- The code word that the bits of an opcode-table row stand for, by the row's width: 32 bits a command, 16 an ADSR word
and 8 a gain byte, these two as the register contents of voice 0 (R99; log entry 8). -/
def tableCode (nbits w : Nat) : Option Code :=
  match nbits with
  | 32 => some (.cmd (BitVec.ofNat 32 w))
  | 16 => some (.adsr16 0 (BitVec.ofNat 16 w))
  | 8 => some (.gain8 0 (BitVec.ofNat 8 w))
  | _ => none

/-- What the decoder reads from an opcode-table word; there is no byte order to apply (R62: the block sees whole words). -/
def decodeTableWord (nbits w : Nat) : Option Instr :=
  match tableCode nbits w with
  | some c =>
    match decode c with
    | .ok i => some i
    | .error _ => none
  | none => none

/-! ### Encoding -/

/-- A command word from its fields, the reserved ones 0 (R80). -/
def packCmd (op : BitVec 4) (v : BitVec 3) (data : BitVec 16) : BitVec 32 := op ++ 0#1 ++ v ++ 0#8 ++ data

/-- `EncodeAdsr(sl_idx, sr_idx, en, d_idx, a_idx)` (R97). -/
def encodeAdsr (sl : BitVec 3) (sr : BitVec 5) (en : BitVec 1) (d : BitVec 3) (a : BitVec 4) : BitVec 16 :=
  sl ++ sr ++ en ++ d ++ a

/-- `EncodeGainDirect(level7)` (R97). -/
def encodeGainDirect (level : BitVec 7) : BitVec 8 := 0#1 ++ level

/-- `EncodeGainCurve(mode, param)` (R97). -/
def encodeGainCurve (mode : BitVec 2) (param : BitVec 5) : BitVec 8 := 1#1 ++ mode ++ param

/-- The code word of an instruction (R80, R81, R97, R99); for a well-formed one, the only one. -/
def encode : Instr → Code
  | .wradsr v imm => .cmd (packCmd 0x1#4 (BitVec.ofNat 3 v) imm)
  | .wrgain v imm => .cmd (packCmd 0x2#4 (BitVec.ofNat 3 v) (0#8 ++ imm))
  | .kon v => .cmd (packCmd 0x3#4 (BitVec.ofNat 3 v) 0#16)
  | .koff v => .cmd (packCmd 0x4#4 (BitVec.ofNat 3 v) 0#16)
  | .rdenvx v => .cmd (packCmd 0x5#4 (BitVec.ofNat 3 v) 0#16)
  | .wrmvoll imm => .cmd (packCmd 0x6#4 0#3 (0#8 ++ imm))
  | .wrmvolr imm => .cmd (packCmd 0x7#4 0#3 (0#8 ++ imm))
  | .adv v => .cmd (packCmd 0x8#4 (BitVec.ofNat 3 v) 0#16)
  | .tick => .cmd (packCmd 0x9#4 0#3 0#16)
  | .close => .cmd (packCmd 0xA#4 0#3 0#16)
  | .pull n => .cmd (packCmd 0xB#4 0#3 n)
  | .konDecay v sl sr d => .adsr16 v (encodeAdsr sl sr 1#1 d 15#4)
  | .konAttack v sl sr d a => .adsr16 v (encodeAdsr sl sr 1#1 d a)
  | .konGainsel v sl sr d a => .adsr16 v (encodeAdsr sl sr 0#1 d a)
  | .konDirect v level => .gain8 v (encodeGainDirect level)
  | .konHoldmax v m => .gain8 v (encodeGainCurve (0#1 ++ m) 0#5)
  | .konHoldzero v m => .gain8 v (encodeGainCurve (1#1 ++ m) 0#5)
  | .konLindecr v p => .gain8 v (encodeGainCurve 0#2 p)
  | .konExpdecr v p => .gain8 v (encodeGainCurve 1#2 p)
  | .konLinincr v p => .gain8 v (encodeGainCurve 2#2 p)
  | .konBentincr v p => .gain8 v (encodeGainCurve 3#2 p)

/-! ### The opcode table as data -/

/-- The row of the opcode table an instruction stands in (R81, R99). -/
def opRow : Instr → OpRow
  | .wradsr _ _ => ⟨"WRADSR", 32, 0xF8FF0000, 0x10000000⟩
  | .wrgain _ _ => ⟨"WRGAIN", 32, 0xF8FFFF00, 0x20000000⟩
  | .kon _ => ⟨"KON", 32, 0xF8FFFFFF, 0x30000000⟩
  | .koff _ => ⟨"KOFF", 32, 0xF8FFFFFF, 0x40000000⟩
  | .rdenvx _ => ⟨"RDENVX", 32, 0xF8FFFFFF, 0x50000000⟩
  | .wrmvoll _ => ⟨"WRMVOLL", 32, 0xFFFFFF00, 0x60000000⟩
  | .wrmvolr _ => ⟨"WRMVOLR", 32, 0xFFFFFF00, 0x70000000⟩
  | .adv _ => ⟨"ADV", 32, 0xF8FFFFFF, 0x80000000⟩
  | .tick => ⟨"TICK", 32, 0xFFFFFFFF, 0x90000000⟩
  | .close => ⟨"CLOSE", 32, 0xFFFFFFFF, 0xA0000000⟩
  | .pull _ => ⟨"PULL", 32, 0xFFFF0000, 0xB0000000⟩
  | .konDecay _ _ _ _ => ⟨"KON.DECAY", 16, 0x008F, 0x008F⟩
  | .konAttack _ _ _ _ _ => ⟨"KON.ATTACK", 16, 0x0080, 0x0080⟩
  | .konGainsel _ _ _ _ _ => ⟨"KON.GAINSEL", 16, 0x0080, 0x0000⟩
  | .konDirect _ _ => ⟨"KON.DIRECT", 8, 0x80, 0x00⟩
  | .konHoldmax _ _ => ⟨"KON.HOLDMAX", 8, 0xDF, 0x80⟩
  | .konHoldzero _ _ => ⟨"KON.HOLDZERO", 8, 0xDF, 0xC0⟩
  | .konLindecr _ _ => ⟨"KON.LINDECR", 8, 0xE0, 0x80⟩
  | .konExpdecr _ _ => ⟨"KON.EXPDECR", 8, 0xE0, 0xA0⟩
  | .konLinincr _ _ => ⟨"KON.LININCR", 8, 0xE0, 0xC0⟩
  | .konBentincr _ _ => ⟨"KON.BENTINCR", 8, 0xE0, 0xE0⟩

/-- One instruction of every row of format CMD, in the table's order (R81). -/
def cmdExamples : List Instr :=
  [.wradsr 0 0, .wrgain 0 0, .kon 0, .koff 0, .rdenvx 0, .wrmvoll 0, .wrmvolr 0, .adv 0, .tick, .close, .pull 0]

/-- The rows of format CMD (R81). -/
def cmdRows : List OpRow := cmdExamples.map opRow

/-- The number a code word is, bit 0 least significant, and its width. -/
def Code.bits : Code → Nat × Nat
  | .cmd w => (32, w.toNat)
  | .adsr16 _ w => (16, w.toNat)
  | .gain8 _ b => (8, b.toNat)

/-- A row selects a code word of its width when `w & mask = pattern` (R81, R99). -/
def OpRow.selects (r : OpRow) (c : Code) : Bool := c.bits.1 == r.width && (c.bits.2 &&& r.mask) == r.pattern

end Sys2Proof
end

