-- ==== Sys2Proof/Machine/Operands.lean ====
section
/-! DEFINITION. The register decoder: the four tables (spec/30_encoding.md R84 to R89), `DecodeAdsr`, `DecodeGain`,
`InitialCurve`, `InitialGain` (spec/40_register_decoder.md R110 to R113). All pure (R119). -/
namespace Sys2Proof.Machine

open Sys2Proof

/-! ### Tables -/

/-- `ATTACK_STEPS` (R84). -/
def attackTable : Vector (Option Nat) 16 :=
  #v[some 2048, some 1280, some 768, some 512, some 320, some 192, some 128, some 80,
     some 48, some 32, some 20, some 12, some 8, some 5, some 3, none]

/-- `DECAY_STEPS` (R85). -/
def decayTable : Vector Nat 8 := #v[64, 40, 24, 16, 10, 6, 4, 2]

/-- `SUSTAIN_LEVELS` (R86). -/
def sustainTable : Vector Nat 8 := #v[255, 511, 767, 1023, 1279, 1535, 1791, 2047]

/-- Table S (R87). -/
def tableS : Vector (Option Nat) 32 :=
  #v[none, some 2048, some 1536, some 1280, some 1024, some 768, some 640, some 512,
     some 384, some 320, some 256, some 192, some 160, some 128, some 96, some 80,
     some 64, some 48, some 40, some 32, some 24, some 20, some 16, some 12,
     some 10, some 8, some 6, some 5, some 4, some 3, some 2, some 1]

/-- The attack step of an index (R84). -/
def attackStep (i : BitVec 4) : Option Nat := attackTable[i.toNat]'i.isLt
/-- The decay step of an index (R85). -/
def decayStep (i : BitVec 3) : Nat := decayTable[i.toNat]'i.isLt
/-- The sustain level of an index (R86). -/
def sustainLevel (i : BitVec 3) : Nat := sustainTable[i.toNat]'i.isLt
/-- The step of an index of Table S (R87). -/
def stepS (i : BitVec 5) : Option Nat := tableS[i.toNat]'i.isLt

/-! ### Decoder functions -/

/-- `DecodeAdsr(w)` (R110). -/
def decodeAdsr (w : BitVec 16) : AdsrDecoded where
  sustainLevel := sustainLevel (slField w)
  srStep := stepS (srField w)
  adsrEnable := enField w == 1#1
  decayStep := decayStep (dField w)
  attackStep := attackStep (aField w)

/-- The direct level: 7 bits times 16, not clamped (R88). -/
def directLevel (level : BitVec 7) : Nat := level.toNat * 16

/-- `DecodeGain(b)` (R111). -/
def decodeGain (b : BitVec 8) : GainDecoded :=
  if directFlag b = 0#1 then .direct (directLevel (levelField b))
  else .curve (modeField b) (stepS (paramField b))

/-- Lines 3 to 9 of `InitialCurve`: the curve of a decoded gain byte (R112, R89, R91). -/
def gainCurve : GainDecoded → Curve
  | .direct level => .static level
  | .curve m none => if m.toNat < 2 then .static Config.maxGain else .static 0
  | .curve m (some n) =>
    match m.toNat with
    | 0 => .linDecr n
    | 1 => .expDecr n
    | 2 => .linIncr n
    | _ => .bentIncr n

/-- Lines 1 and 2 of `InitialCurve`: the curve of an enabled ADSR word (R112). -/
def adsrCurve (attack : Option Nat) (decay : Nat) : Curve :=
  match attack with
  | some n => .attack n
  | none => .decay decay

/-- `InitialCurve(a, g)` (R112). -/
def initialCurve (a : AdsrDecoded) (g : GainDecoded) : Curve :=
  if a.adsrEnable then adsrCurve a.attackStep a.decayStep else gainCurve g

/-- `InitialGain(curve)`, undefined on `Sustain` and `Fade` (R113). -/
def initialGain : Curve → Option Int
  | .attack _ | .linIncr _ | .bentIncr _ => some 0
  | .decay _ | .linDecr _ | .expDecr _ => some Config.maxGain
  | .static level => some level
  | .sustain _ | .fade => none

/-- The snapshot of three index fields (R28, R130). -/
def snapshot (sl : BitVec 3) (sr : BitVec 5) (d : BitVec 3) : EnvCfg := ⟨decayStep d, sustainLevel sl, stepS sr⟩

/-- The snapshot of an ADSR word (R130). -/
def snapshotOf (w : BitVec 16) : EnvCfg := snapshot (slField w) (srField w) (dField w)

/-! ### Result formats -/

/-- The 17-bit form of ADV's result, `valid` in bit 16 (R95). -/
def encodeAdv : AdvResult → BitVec 17
  | .sample s => 1#1 ++ BitVec.ofInt 16 s
  | .exhausted => 0#17

/-- The gain a result contributes to the mix: 0 when exhausted (R177). -/
def AdvResult.gainOrZero : AdvResult → Int
  | .sample s => s
  | .exhausted => 0

end Sys2Proof.Machine
end

