-- ==== Sys2Proof/Machine/Ops.lean ====
section
/-! DEFINITION. The shared operations: voices, registers, envelope slots, the queue, the packet under construction, the ring.
There is no exception to take and none to return from: the block has no trap, no handler, no saved state and no mode (R225 to
R229), so the operations for that are `onVoice` and `construct`, which stop by name, `holdTick`, which waits, and `recordRefusal`. -/
namespace Sys2Proof.Machine

open Sys2Proof

/-! ### Voices and registers -/

/-- Run an operation on a voice, or refuse a voice that does not exist (R61, R220). -/
def onVoice (v : Nat) (run : Voice → Result) : Result :=
  if h : v < 8 then run ⟨v, h⟩ else .refused .voiceRange

/-- `ADSR[v] <- w` (R20, R21). -/
def State.setAdsr (s : State) (v : Voice) (w : BitVec 16) : State := { s with adsr := s.adsr.set v w }

/-- `GAIN[v] <- b` (R20, R21). -/
def State.setGain (s : State) (v : Voice) (b : BitVec 8) : State := { s with gain := s.gain.set v b }

/-- `env[v] <- e` (R24). -/
def State.setEnv (s : State) (v : Voice) (e : Option Env) : State := { s with env := s.env.set v e }

/-! ### Envelope construction -/

/-- A new envelope in a curve, partial as R221 asks: `Fade` and `Sustain` are no first curves. -/
def construct (c : Curve) (cfg : EnvCfg) : Except Fault Env :=
  match initialGain c with
  | some g => .ok ⟨c, g, 0, cfg⟩
  | none => .error (.constructError c)

/-- Put a new envelope in a voice's slot; whatever was there is discarded (R130). -/
def installEnv (v : Voice) (c : Curve) (cfg : EnvCfg) (s : State) : Result :=
  match construct c cfg with
  | .ok e => .next (s.setEnv v (some e))
  | .error f => .fault f

/-! ### The queue (R70) -/

/-- PUBLISH's effect: a copy of the packet goes to the tail, and the packet under construction is empty (R185). -/
def publish (s : State) : State := { s with q := s.q ++ [s.pkt], pkt := [] }

/-- PUBLISH, where it is enabled (R185). -/
def publishIfDue (s : State) : State := if s.publishEnabled then publish s else s

/-- TryReceive: the head, removed, or none (R186). -/
def tryReceive (s : State) : Option Packet × State :=
  match s.q with
  | p :: rest => (some p, { s with q := rest })
  | [] => (none, s)

/-- CLOSE's effect: the queue is closed and an unpublished packet is discarded (R187). -/
def closeQueue (s : State) : State := { s with closed := true, pkt := [] }

/-- A TICK that is not enabled because the packet is full waits at the head of the producer's port, with the samples
presented with it; nothing else changes (R174, R189; log entry 10). -/
def holdTick (s : State) : State := { s with prodIn := ⟨encode .tick, s.brrIn⟩ :: s.prodIn }

/-! ### Refusals -/

/-- Mark the run as refused, for a reason (R220; log entry 17). -/
def recordRefusal (r : Refusal) (s : State) : State := { s with refusals := s.refusals ++ [r] }

/-- After a command: `s` is the state with the command taken off its port. A refusal of R225 changes nothing but the mark, and the
block is ready for the next command (R220, R229); any other answer stands. -/
def afterCommand (s : State) : Result → Result
  | .refused .badCommand => .next (recordRefusal .badCommand s)
  | .refused .voiceRange => .next (recordRefusal .voiceRange s)
  | .refused .tickAfterClose => .next (recordRefusal .tickAfterClose s)
  | r => r

/-! ### The packet and the ring -/

/-- Frame `i` of a packet (R63); a frame the packet does not have is a free value (log entry 6). -/
def packetFrame (p : Packet) (i : Nat) : Frame16 := p.getD i (Config.missingFrame i)

/-- Write the frame at `pkt_fill` and advance `pkt_fill` (R173). -/
def appendFrame (f : Frame16) (s : State) : State := { s with pkt := s.pkt ++ [f] }

/-- Drop the oldest ring frame and append the newest (R203). -/
def pushRing (f : Frame32) (s : State) : State := { s with ring := s.ring.drop 1 ++ [f] }

end Sys2Proof.Machine
end

