-- ==== Sys2Proof/Machine/Envelope.lean ====
section
/-! DEFINITION. The envelope state machine: KOFF and ADV, one rule per curve (spec/41_envelope.md R131 to R144, R150). -/
namespace Sys2Proof.Machine

open Sys2Proof

/-! ### Deltas -/

/-- `ExpDelta(g)` (R143). -/
def expDelta (g : Int) : Int := -(asr (g - 1) 8 + 1)

/-- The delta of `BentIncr`, tested on the gain before it (R138). -/
def bentDelta (g : Int) : Int := if Config.bentKnee ≤ g then Config.bentStep else Config.gainStep

/-! ### Transitions -/

/-- Enter `Static(l)`: the gain becomes the level and the counter 0 (R144). -/
def enterStatic (l : Nat) (e : Env) : Env := { e with curve := .static l, gain := l, counter := 0 }

/-- `Attack`'s check (R134). -/
def checkAttack (e : Env) : Env :=
  if (Config.maxAttack : Int) ≤ e.gain then
    { e with gain := Config.maxAttack, curve := .decay e.cfg.decayStep, counter := 0 }
  else e

/-- `Decay`'s check (R135). -/
def checkDecay (e : Env) : Env :=
  if e.gain ≤ e.cfg.sustainLevel then
    match e.cfg.srStep with
    | some m => { e with curve := .sustain m, counter := 0 }
    | none => enterStatic e.cfg.sustainLevel e
  else e

/-- The check of the falling curves `Sustain`, `LinDecr`, `ExpDecr` (R136, R139, R140). -/
def checkFloor (e : Env) : Env := if e.gain ≤ 0 then enterStatic 0 e else e

/-- The check of the rising curves `LinIncr`, `BentIncr` (R137, R138). -/
def checkCeiling (e : Env) : Env := if (Config.maxGain : Int) ≤ e.gain then enterStatic Config.maxGain e else e

/-! ### The tick -/

/-- Step 2 of the tick of a stepped curve: count, and every `n` ticks apply the delta (R133). -/
def countTick (n : Nat) (delta : Int → Int) (e : Env) : Env :=
  if n ≤ e.counter + 1 then { e with gain := e.gain + delta e.gain, counter := 0 }
  else { e with counter := e.counter + 1 }

/-- One call of ADV on a present envelope (R132, R133): the gain before the tick is the sample. -/
def advEnv (e : Env) : AdvResult × Env :=
  match e.curve with
  | .static l => (.sample l, e)
  | .fade => if e.gain ≤ 0 then (.exhausted, e) else (.sample e.gain, { e with gain := e.gain - Config.bentStep })
  | .attack n => (.sample e.gain, checkAttack (countTick n (fun _ => Config.gainStep) e))
  | .decay n => (.sample e.gain, checkDecay (countTick n expDelta e))
  | .sustain n => (.sample e.gain, checkFloor (countTick n expDelta e))
  | .linIncr n => (.sample e.gain, checkCeiling (countTick n (fun _ => Config.gainStep) e))
  | .bentIncr n => (.sample e.gain, checkCeiling (countTick n bentDelta e))
  | .linDecr n => (.sample e.gain, checkFloor (countTick n (fun _ => -Config.gainStep) e))
  | .expDecr n => (.sample e.gain, checkFloor (countTick n expDelta e))

/-- ADV on a slot: an absent envelope is exhausted (R150). -/
def advSlot : Option Env → AdvResult × Option Env
  | none => (.exhausted, none)
  | some e => ((advEnv e).1, some (advEnv e).2)

/-- ADV of one voice, as a command or inside a TICK (R132, R149). -/
def advVoice (v : Voice) (s : State) : AdvResult × State := ((advSlot s.env[v]).1, s.setEnv v (advSlot s.env[v]).2)

/-- KOFF on a slot: `Fade` and counter 0, gain and snapshot kept; nothing to fade when absent (R131). -/
def keyOffSlot : Option Env → Option Env
  | none => none
  | some e => some { e with curve := .fade, counter := 0 }

/-! ### Commands -/

/-- KOFF (R131). -/
def execKoff (v : Nat) (s : State) : Result := onVoice v fun u => .next (s.setEnv u (keyOffSlot s.env[u]))

/-- ADV (R132); its result goes to the port in the form of R95. -/
def execAdv (v : Nat) (s : State) : Result :=
  onVoice v fun u => .next { (advVoice u s).2 with advOut := encodeAdv (advVoice u s).1 }

end Sys2Proof.Machine
end

