-- ==== Sys2Proof/Machine/KeyOn.lean ====
section
/-! DEFINITION. KON (spec/41_envelope.md R130) and its ten decoding cases (spec/30_encoding.md R99, R112). A case is the part
of KON that one row of the table selects: an ADSR16 row brings the word's fields as operands, a GAIN8 row the byte's, and what
KON reads besides comes from the voice's registers. Log entry 8. -/
namespace Sys2Proof.Machine

open Sys2Proof

/-- KON (R130). -/
def execKon (v : Nat) (s : State) : Result :=
  onVoice v fun u =>
    let a := decodeAdsr s.adsr[u]
    let g := decodeGain s.gain[u]
    installEnv u (initialCurve a g) ⟨a.decayStep, a.sustainLevel, a.srStep⟩ s

/-- KON.DECAY (R99; R112 line 2). -/
def execKonDecay (v : Nat) (sl : BitVec 3) (sr : BitVec 5) (d : BitVec 3) (s : State) : Result :=
  onVoice v fun u => installEnv u (.decay (decayStep d)) (snapshot sl sr d) s

/-- KON.ATTACK (R99; R112 line 1); index 15 has no attack step, and then line 2 holds. -/
def execKonAttack (v : Nat) (sl : BitVec 3) (sr : BitVec 5) (d : BitVec 3) (a : BitVec 4) (s : State) : Result :=
  onVoice v fun u => installEnv u (adsrCurve (attackStep a) (decayStep d)) (snapshot sl sr d) s

/-- KON.GAINSEL (R99): the gain byte decides the curve (R112 lines 3 to 9); the ADSR fields still give the snapshot (R90),
and `a_idx` is consumed by nothing. -/
def execKonGainsel (v : Nat) (sl : BitVec 3) (sr : BitVec 5) (d : BitVec 3) (_a : BitVec 4) (s : State) : Result :=
  onVoice v fun u => installEnv u (gainCurve (decodeGain s.gain[u])) (snapshot sl sr d) s

/-- KON.DIRECT (R99, R88; R112 line 3). -/
def execKonDirect (v : Nat) (level : BitVec 7) (s : State) : Result :=
  onVoice v fun u => installEnv u (.static (directLevel level)) (snapshotOf s.adsr[u]) s

/-- KON.HOLDMAX (R99, R91; R112 line 4): the same curve in both decreasing modes. -/
def execKonHoldmax (v : Nat) (_mode0 : BitVec 1) (s : State) : Result :=
  onVoice v fun u => installEnv u (.static Config.maxGain) (snapshotOf s.adsr[u]) s

/-- KON.HOLDZERO (R99, R91; R112 line 5): the same curve in both increasing modes. -/
def execKonHoldzero (v : Nat) (_mode0 : BitVec 1) (s : State) : Result :=
  onVoice v fun u => installEnv u (.static 0) (snapshotOf s.adsr[u]) s

/-- KON.LINDECR (R99; R112 line 6, and line 4 where Table S has no step). -/
def execKonLindecr (v : Nat) (p : BitVec 5) (s : State) : Result :=
  onVoice v fun u => installEnv u (gainCurve (.curve 0#2 (stepS p))) (snapshotOf s.adsr[u]) s

/-- KON.EXPDECR (R99; R112 line 7, and line 4 where Table S has no step). -/
def execKonExpdecr (v : Nat) (p : BitVec 5) (s : State) : Result :=
  onVoice v fun u => installEnv u (gainCurve (.curve 1#2 (stepS p))) (snapshotOf s.adsr[u]) s

/-- KON.LININCR (R99; R112 line 8, and line 5 where Table S has no step). -/
def execKonLinincr (v : Nat) (p : BitVec 5) (s : State) : Result :=
  onVoice v fun u => installEnv u (gainCurve (.curve 2#2 (stepS p))) (snapshotOf s.adsr[u]) s

/-- KON.BENTINCR (R99; R112 line 9, and line 5 where Table S has no step). -/
def execKonBentincr (v : Nat) (p : BitVec 5) (s : State) : Result :=
  onVoice v fun u => installEnv u (gainCurve (.curve 3#2 (stepS p))) (snapshotOf s.adsr[u]) s

end Sys2Proof.Machine
end

