-- ==== Sys2Proof/Machine/Mixer.lean ====
section
/-! DEFINITION. The stereo voice mixer: TICK (spec/42_mixer.md R170 to R177). -/
namespace Sys2Proof.Machine

open Sys2Proof

/-- `VoiceTerm(g, s, m)` (R171), at the shifts of the parameters. -/
def voiceTerm (p : Config.Params) (g : Int) (brr : BitVec 16) (m : BitVec 8) : Int :=
  sat16 (asr (asr (g * brr.toInt) p.mixEnvShift * m.toInt) p.mixVolShift)

/-- The voices in the order the mixer takes them (R176). -/
def voiceOrder : List Voice := [0, 1, 2, 3, 4, 5, 6, 7]

/-- One turn of TICK's loop: advance the voice, add its terms to both sums, saturating (R170, R172, R177). -/
def mixVoice (acc : State × Int × Int) (v : Voice) : State × Int × Int :=
  let s := acc.1
  let r := advVoice v s
  let g := r.1.gainOrZero
  (r.2,
   sat16 (acc.2.1 + voiceTerm s.params g s.brrIn[v] s.mvolL),
   sat16 (acc.2.2 + voiceTerm s.params g s.brrIn[v] s.mvolR))

/-- TICK's loop over the eight voices, both sums from 0 (R170, R172). -/
def mixAll (s : State) : State × Int × Int := voiceOrder.foldl mixVoice (s, 0, 0)

/-- TICK where it is enabled (R170). -/
def tickEffect (s : State) : State :=
  let m := mixAll s
  appendFrame ⟨toI16 m.2.1, toI16 m.2.2⟩ m.1

/-- TICK (R170): refused after CLOSE, and waiting while a full packet is unpublished (R174, R189). -/
def execTick (s : State) : Result :=
  if s.closed then .refused .tickAfterClose
  else if s.tickEnabled then .next (tickEffect s)
  else .next (holdTick s)

end Sys2Proof.Machine
end

