-- ==== Sys2Proof/Machine/Queue.lean ====
section
/-! DEFINITION. The command of the frame-paced queue: CLOSE (spec/43_queue.md R187). -/
namespace Sys2Proof.Machine

open Sys2Proof

/-- CLOSE (R187). -/
def execClose (s : State) : Result := .next (closeQueue s)

end Sys2Proof.Machine
end

