-- ==== Sys2Proof/Machine/Registers.lean ====
section
/-! DEFINITION. The register access operations (spec/40_register_decoder.md R114 to R118). -/
namespace Sys2Proof.Machine

open Sys2Proof

/-- WRADSR (R114): latches the word; the envelope is untouched (R21). -/
def execWradsr (v : Nat) (imm : BitVec 16) (s : State) : Result := onVoice v fun u => .next (s.setAdsr u imm)

/-- WRGAIN (R115): latches the byte; the envelope is untouched (R21). -/
def execWrgain (v : Nat) (imm : BitVec 8) (s : State) : Result := onVoice v fun u => .next (s.setGain u imm)

/-- WRMVOLL (R116). -/
def execWrmvoll (imm : BitVec 8) (s : State) : Result := .next { s with mvolL := imm }

/-- WRMVOLR (R117). -/
def execWrmvolr (imm : BitVec 8) (s : State) : Result := .next { s with mvolR := imm }

/-- RDENVX (R118): answers the ENVX view and changes no state of the block (R66). -/
def execRdenvx (v : Nat) (s : State) : Result := onVoice v fun u => .next { s with envxOut := s.envx u }

end Sys2Proof.Machine
end

