-- ==== Sys2Proof/Machine/Resampler.lean ====
section
/-! DEFINITION. The consumer: SRC_NEXT, CONVERT, PULL (spec/44_resampler.md R200 to R210), whole and in the parts between which
the other agent can run (R70, R232; log entry 7). -/
namespace Sys2Proof.Machine

open Sys2Proof

/-! ### SRC_NEXT (R200) -/

/-- Branch (a) holds: the current packet has an unread frame. -/
def State.hasUnread (s : State) : Bool := s.curPkt.isSome && decide (s.curIdx < s.params.packetFrames)

/-- Branches (a) and (b) after their choice: emit frame `i` of packet `p`. -/
def emitFrame (p : Packet) (i : Nat) (s : State) : Frame32 × State :=
  let f := toF32 (packetFrame p i)
  (f, { s with curPkt := some p, curIdx := i + 1, lastFrame := f })

/-- Branches (e), (c), (d): TryReceive answered none (R200). -/
def underrun (s : State) : Frame32 × State :=
  if s.closed then (Frame32.zero, s)
  else if s.curPkt.isSome then (damp s.lastFrame, { s with lastFrame := damp s.lastFrame })
  else (Frame32.zero, s)

/-- SRC_NEXT up to the read of `closed`: an answer, or none where branches (e), (c), (d) decide (R200). -/
def srcTry (s : State) : Option Frame32 × State :=
  match s.curPkt, s.hasUnread with
  | some p, true => let r := emitFrame p s.curIdx s; (some r.1, r.2)
  | _, _ =>
    match tryReceive s with
    | (some p, s') => let r := emitFrame p 0 s'; (some r.1, r.2)
    | (none, s') => (none, s')

/-- SRC_NEXT (R200). -/
def srcNext (s : State) : Frame32 × State :=
  match srcTry s with
  | (some f, s') => (f, s')
  | (none, s') => underrun s'

/-! ### CONVERT (R203) -/

/-- The phase advance: the number of source frames to take, and the new phase. -/
def advancePhase (s : State) : Nat × State :=
  let total := s.phaseNum + Config.srcRate
  (total / s.params.hostRate, { s with phaseNum := total % s.params.hostRate })

/-- `repeat n times: f <- SRC_NEXT(); ring <- ring shifted by f`. -/
def srcTimes : Nat → State → State
  | 0, s => s
  | n + 1, s => let r := srcNext s; srcTimes n (pushRing r.1 r.2)

/-- `INTERP(ring, phase_num, HOST_RATE)` (R205). -/
def interpolate (s : State) : Frame32 := Config.interp s.ring s.phaseNum s.params.hostRate

/-- CONVERT (R203). -/
def convert (s : State) : Frame32 × State :=
  let a := advancePhase s
  let t := srcTimes a.1 a.2
  (interpolate t, t)

/-! ### PULL (R206) -/

/-- `n` CONVERT steps; the values left first (R63, R98). -/
def pullFrames : Nat → State → List F32 × State
  | 0, s => ([], s)
  | n + 1, s =>
    let c := convert s
    let r := pullFrames n c.2
    (c.1.left :: c.1.right :: r.1, r.2)

/-- PULL (R206): always completes; its result goes to the port. -/
def execPull (n : BitVec 16) (s : State) : Result :=
  let r := pullFrames n.toNat s
  .next { r.2 with buffer := r.1 }

/-! ### PULL in parts -/

/-- Start PULL `n` without running any of it. -/
def startPull (n : BitVec 16) (s : State) : State := { s with pulling := some ⟨n.toNat, .idle, []⟩ }

/-- One part of a PULL in progress; each part touches the state shared with the producer at most once (R70). -/
def pullPart (p : Pulling) (s : State) : State :=
  match p.stage with
  | .idle =>
    match p.left with
    | 0 => { s with pulling := none, buffer := p.out }
    | _ + 1 => let a := advancePhase s; { a.2 with pulling := some { p with stage := .source a.1 } }
  | .source 0 =>
    let f := interpolate s
    { s with pulling := some ⟨p.left - 1, .idle, p.out ++ [f.left, f.right]⟩ }
  | .source (k + 1) =>
    match srcTry s with
    | (some f, s') => { pushRing f s' with pulling := some { p with stage := .source k } }
    | (none, s') => { s' with pulling := some { p with stage := .readClosed k } }
  | .readClosed k =>
    let r := underrun s
    { pushRing r.1 r.2 with pulling := some { p with stage := .source k } }

end Sys2Proof.Machine
end

