-- ==== Sys2Proof/Machine/Dispatch.lean ====
section
/-! DEFINITION. exec: one arm per instruction, each a direct call of its meaning. -/
namespace Sys2Proof.Machine
open Sys2Proof

def exec (i : Instr) (s : State) : Host.Outcome State Fault Refusal :=
  match i with
  | .wradsr v imm => Sys2Proof.Machine.execWradsr v imm s
  | .wrgain v imm => Sys2Proof.Machine.execWrgain v imm s
  | .kon v => Sys2Proof.Machine.execKon v s
  | .koff v => Sys2Proof.Machine.execKoff v s
  | .rdenvx v => Sys2Proof.Machine.execRdenvx v s
  | .wrmvoll imm => Sys2Proof.Machine.execWrmvoll imm s
  | .wrmvolr imm => Sys2Proof.Machine.execWrmvolr imm s
  | .adv v => Sys2Proof.Machine.execAdv v s
  | .tick => Sys2Proof.Machine.execTick s
  | .close => Sys2Proof.Machine.execClose s
  | .pull n => Sys2Proof.Machine.execPull n s
  | .konDecay v sl sr d => Sys2Proof.Machine.execKonDecay v sl sr d s
  | .konAttack v sl sr d a => Sys2Proof.Machine.execKonAttack v sl sr d a s
  | .konGainsel v sl sr d a => Sys2Proof.Machine.execKonGainsel v sl sr d a s
  | .konDirect v level => Sys2Proof.Machine.execKonDirect v level s
  | .konHoldmax v m => Sys2Proof.Machine.execKonHoldmax v m s
  | .konHoldzero v m => Sys2Proof.Machine.execKonHoldzero v m s
  | .konLindecr v p => Sys2Proof.Machine.execKonLindecr v p s
  | .konExpdecr v p => Sys2Proof.Machine.execKonExpdecr v p s
  | .konLinincr v p => Sys2Proof.Machine.execKonLinincr v p s
  | .konBentincr v p => Sys2Proof.Machine.execKonBentincr v p s

end Sys2Proof.Machine
end

