-- ==== Sys2Proof/Machine/Agents.lean ====
section
/-! DEFINITION. The two agents' turns: taking the next command from a port, decoding it, running it (spec/00_scope.md R12,
spec/60_exceptions.md R227, R230, R232). -/
namespace Sys2Proof.Machine

open Sys2Proof

/-- The refusal of a code word that is no instruction (R92, R220). -/
def refusalOf : Reject → Refusal
  | .badCommand => .badCommand
  | .voiceRange => .voiceRange

/-- Run a code word for an agent: decode errors come first (R227), then the agent's path (R230). -/
def runFor (a : Agent) (c : Code) (s : State) : Result :=
  match decode c with
  | .ok i => if i.agent = a then exec i s else .refused .wrongAgent
  | .error r => .refused (refusalOf r)

/-- The producer's next command, taken from its port, with the samples presented with it (R12, R175); a refused one is
recorded (R229). -/
def runProducer (s : State) : Result :=
  match s.prodIn with
  | [] => .next s
  | i :: rest =>
    afterCommand { s with prodIn := rest } (runFor .producer i.code { s with prodIn := rest, brrIn := i.brr })

/-- PUBLISH follows at once where an operation has left a full packet and the queue has room (R185). -/
def thenPublish : Result → Result
  | .next s => .next (publishIfDue s)
  | .fault f => .fault f
  | .refused r => .refused r

/-- A producer turn: PUBLISH, where a stall has just ended, runs before the next command, and where the command fills the
packet it follows at once (R185, R189). -/
def producerTurn (s : State) : Result := thenPublish (runProducer (publishIfDue s))

/-- A consumer turn: the next command whole (R12), or the next part of a PULL in progress. -/
def consumerTurn (s : State) : Result :=
  match s.pulling with
  | some p => .next (pullPart p s)
  | none =>
    match s.consIn with
    | [] => .next s
    | w :: rest => afterCommand { s with consIn := rest } (runFor .consumer (.cmd w) { s with consIn := rest })

/-- Start the consumer's next command, or refuse it, without running any part of it (R206, R227, R230). -/
def startFor (c : Code) (s : State) : Result :=
  match decode c with
  | .ok (.pull n) => .next (startPull n s)
  | .ok _ => .refused .wrongAgent
  | .error r => .refused (refusalOf r)

/-- A consumer turn in parts: start the next command, or run the next part of the PULL in progress (R232). -/
def consumerPartTurn (s : State) : Result :=
  match s.pulling with
  | some p => .next (pullPart p s)
  | none =>
    match s.consIn with
    | [] => .next s
    | w :: rest => afterCommand { s with consIn := rest } (startFor (.cmd w) { s with consIn := rest })

/-- Reset as an event, from any state: every piece of state takes its reset value, the parameters stay as configured, and a
PULL in progress is abandoned (R250). What the environment has still to issue, and the mark of a refused run, are no state of
the block and stay (log entry 13). -/
def resetBlock (d : Draw) (s : State) : State :=
  { State.resetWith s.params d with
    prodIn := s.prodIn, consIn := s.consIn, turns := s.turns,
    refusals := s.refusals }

/-- One scheduled turn (R232, R250). -/
def takeTurn (t : Turn) (s : State) : Result :=
  match t with
  | .producer => producerTurn s
  | .publish => .next (publishIfDue s)
  | .consumer => consumerTurn s
  | .consumerPart => consumerPartTurn s
  | .reset d => .next (resetBlock d s)

/-- A code word placed at the head of the port of the agent it belongs to, and that agent scheduled next. -/
def placeCode (c : Code) (s : State) : State :=
  match c with
  | .cmd w =>
    if opField w = 0xB#4 then { s with consIn := w :: s.consIn, pulling := none, turns := .consumer :: s.turns }
    else { s with prodIn := ⟨c, s.brrIn⟩ :: s.prodIn, turns := .producer :: s.turns }
  | .adsr16 _ _ | .gain8 _ _ => { s with prodIn := ⟨c, s.brrIn⟩ :: s.prodIn, turns := .producer :: s.turns }

end Sys2Proof.Machine
end

