-- ==== Sys2Proof/Machine/Step.lean ====
section
/-! DEFINITION. The step: the next turn of the schedule (R232), and the host's placement of one code word. -/
namespace Sys2Proof.Machine

open Sys2Proof

/-- One step: the agent the schedule names moves; with nobody scheduled the block is idle (R23: operations come from
outside; log entry 7). -/
def step (s : State) : Host.Outcome State Fault Refusal :=
  match s.turns with
  | [] => .next s
  | t :: ts => takeTurn t { s with turns := ts }

/-- `s` with one opcode-table word issued: it stands at the head of its agent's port and that agent moves next, so that the
next step runs it (log entry 11). A width no row has changes nothing. -/
def State.withFetchWord (s : State) (nbits w : Nat) : State :=
  match tableCode nbits w with
  | some c => placeCode c s
  | none => s

end Sys2Proof.Machine
end

