-- ==== Sys2Proof/Safety.lean ====
section
/-! DEFINITION. What counts as a safe state and a safe run: the invariants of spec/10_state.md (R25 to R29, R33 to R37) and
the views, relations and iterated runs that the statements are written in. -/
namespace Sys2Proof.Machine

open Sys2Proof

/-! ### Invariants -/

/-- A step count is in 1..2048 (R25). -/
abbrev StepOk (n : Nat) : Prop := 1 ≤ n ∧ n ≤ 2048

/-- The step count of a stepped curve (R25). -/
def Curve.step? : Curve → Option Nat
  | .attack n | .decay n | .sustain n | .linIncr n | .bentIncr n | .linDecr n | .expDecr n => some n
  | .fade | .static _ => none

/-- A snapshot holds table values (R28). -/
def CfgInv (c : EnvCfg) : Prop := ∃ sl sr d, c = snapshot sl sr d

/-- The invariants (a), (b), (c) of a present envelope (R29), with the ranges of R25 and R28. -/
def EnvInv (e : Env) : Prop :=
  CfgInv e.cfg ∧
  match e.curve with
  | .static l => e.gain = l ∧ l ≤ 2047 ∧ e.counter = 0
  | .fade => -7 ≤ e.gain ∧ e.gain ≤ 2047 ∧ e.counter = 0
  | .attack n | .decay n | .sustain n | .linIncr n | .bentIncr n | .linDecr n | .expDecr n =>
    StepOk n ∧ 0 ≤ e.gain ∧ e.gain ≤ 2016 ∧ e.counter < n

/-- A PULL in progress: inside CONVERT a step is unfinished, between the two halves of SRC_NEXT no frame is unread, and whole
frames have been put out (R200, R203, R64). -/
def PullInv (s : State) (p : Pulling) : Prop :=
  p.out.length % 2 = 0 ∧
  match p.stage with
  | .idle => True
  | .source _ => 1 ≤ p.left
  | .readClosed _ => 1 ≤ p.left ∧ s.hasUnread = false

/-- The invariant of the state (R29, R33, R34, R36, R37, R64, R93, R188). -/
structure State.Inv (s : State) : Prop where
  params : s.params.Legal
  env : ∀ (v : Voice) e, s.env[v] = some e → EnvInv e
  pkt : s.pkt.length ≤ s.params.packetFrames
  pktClosed : s.closed = true → s.pkt = []
  qLength : s.q.length ≤ s.params.queueCapacity
  qPackets : ∀ p ∈ s.q, p.length = s.params.packetFrames
  curPkt : ∀ p, s.curPkt = some p → p.length = s.params.packetFrames
  curIdx : s.curIdx ≤ s.params.packetFrames
  ring : s.ring.length = s.params.ringFrames
  phase : s.phaseNum < s.params.hostRate
  envxOut : s.envxOut.toNat ≤ 127
  bufferEven : s.buffer.length % 2 = 0
  pulling : ∀ p, s.pulling = some p → PullInv s p

/-- A pattern that is neither a NaN nor an infinity. -/
abbrev F32Finite (x : F32) : Prop := f32Exp x < 255

/-- Both channels finite. -/
abbrev Frame32Finite (f : Frame32) : Prop := F32Finite f.left ∧ F32Finite f.right

/-- Every frame the consumer remembers is finite. -/
def State.FloatsFinite (s : State) : Prop := Frame32Finite s.lastFrame ∧ ∀ f ∈ s.ring, Frame32Finite f

/-- The value of a finite pattern (R11). -/
def f32Value (x : F32) : ℚ :=
  (if f32Sign x = 1#1 then -1 else 1) * (f32Sig x : ℚ) * (2 : ℚ) ^ (f32Scale x)

/-! ### Views -/

/-- What the producer owns (R39). -/
def State.producerOwned (s : State) :
    Vector (BitVec 16) 8 × Vector (BitVec 8) 8 × Vector (Option Env) 8 × BitVec 8 × BitVec 8 × Packet :=
  (s.adsr, s.gain, s.env, s.mvolL, s.mvolR, s.pkt)

/-- What the consumer owns (R39). -/
def State.consumerOwned (s : State) : Option Packet × Nat × Frame32 × List Frame32 × Nat :=
  (s.curPkt, s.curIdx, s.lastFrame, s.ring, s.phaseNum)

/-- `s` with the fields the consumer owns taken from `u`. -/
def State.withConsumerOwned (s u : State) : State :=
  { s with curPkt := u.curPkt, curIdx := u.curIdx, lastFrame := u.lastFrame, ring := u.ring, phaseNum := u.phaseNum }

/-- `s` with the fields the producer owns taken from `u`. -/
def State.withProducerOwned (s u : State) : State :=
  { s with adsr := u.adsr, gain := u.gain, env := u.env, mvolL := u.mvolL, mvolR := u.mvolR, pkt := u.pkt }

/-- A function applied to the next state, where there is one. -/
def mapNext (f : State → State) : Result → Result
  | .next s => .next (f s)
  | .fault e => .fault e
  | .refused r => .refused r

/-- What both agents touch (R34, R39). -/
def State.shared (s : State) : List Packet × Bool := (s.q, s.closed)

/-- The stall (R189): the packet is full and the queue is full, and the queue is open. -/
def State.stalled (s : State) : Bool := s.packetPending && s.queueFull && !s.closed

/-- The next turn is a reset (R250). -/
def State.resetDue (s : State) : Bool :=
  match s.turns with
  | .reset _ :: _ => true
  | _ => false

/-- No packet has reached the consumer and none is queued: there is no current packet, and the ring is all zero (R41, R251). -/
def State.Unfed (s : State) : Prop :=
  s.q = [] ∧ s.curPkt = none ∧ s.ring = List.replicate s.params.ringFrames ⟨0#32, 0#32⟩

/-- The operations that create an envelope: KON and its decoding cases (R130, R99). -/
def isKeyOn : Instr → Bool
  | .kon _ | .konDecay _ _ _ _ | .konAttack _ _ _ _ _ | .konGainsel _ _ _ _ _ | .konDirect _ _ | .konHoldmax _ _
  | .konHoldzero _ _ | .konLindecr _ _ | .konExpdecr _ _ | .konLinincr _ _ | .konBentincr _ _ => true
  | .wradsr _ _ | .wrgain _ _ | .koff _ | .rdenvx _ | .wrmvoll _ | .wrmvolr _ | .adv _ | .tick | .close | .pull _ => false

/-! ### The transition graph (R145) -/

/-- A curve an envelope may start in: every curve but `Fade` and `Sustain` (R112, R148). -/
def Curve.isFirst : Curve → Bool
  | .fade | .sustain _ => false
  | .attack _ | .decay _ | .linIncr _ | .bentIncr _ | .linDecr _ | .expDecr _ | .static _ => true

/-- The gain of an envelope after step 2 of its tick, before the check (R133). -/
def countedGain (e : Env) : Int :=
  match e.curve with
  | .attack n | .linIncr n => (countTick n (fun _ => Config.gainStep) e).gain
  | .bentIncr n => (countTick n bentDelta e).gain
  | .linDecr n => (countTick n (fun _ => -Config.gainStep) e).gain
  | .decay n | .sustain n | .expDecr n => (countTick n expDelta e).gain
  | .fade | .static _ => e.gain

/-- One ADV may take curve `c` with snapshot `cfg` to `c'`, where the gain to be checked is `g`: it stays, or follows the table
of R145 with its cause. -/
inductive AdvSuccessor (cfg : EnvCfg) (g : Int) : Curve → Curve → Prop
  | stay (c) : AdvSuccessor cfg g c c
  | attackDone (n) : 2016 ≤ g → AdvSuccessor cfg g (.attack n) (.decay cfg.decayStep)
  | decayToSustain (n m) : g ≤ cfg.sustainLevel → cfg.srStep = some m → AdvSuccessor cfg g (.decay n) (.sustain m)
  | decayToHold (n) : g ≤ cfg.sustainLevel → cfg.srStep = none → AdvSuccessor cfg g (.decay n) (.static cfg.sustainLevel)
  | sustainDone (n) : g ≤ 0 → AdvSuccessor cfg g (.sustain n) (.static 0)
  | linIncrDone (n) : 2016 ≤ g → AdvSuccessor cfg g (.linIncr n) (.static 2016)
  | bentIncrDone (n) : 2016 ≤ g → AdvSuccessor cfg g (.bentIncr n) (.static 2016)
  | linDecrDone (n) : g ≤ 0 → AdvSuccessor cfg g (.linDecr n) (.static 0)
  | expDecrDone (n) : g ≤ 0 → AdvSuccessor cfg g (.expDecr n) (.static 0)

/-- What operation `i` may do to the slot of voice `v` (R145): leave it, start an envelope, force `Fade`, or take a step of the
graph. -/
def SlotMoves (i : Instr) (v : Voice) (before after : Option Env) : Prop :=
  after = before ∨
  (isKeyOn i = true ∧ i.voice? = some v.val ∧ ∃ e, after = some e ∧ e.curve.isFirst = true) ∨
  (i = .koff v ∧ before ≠ none ∧ ∃ e, after = some e ∧ e.curve = .fade) ∨
  ((i = .adv v ∨ i = .tick) ∧ ∃ e e', before = some e ∧ after = some e' ∧ e'.cfg = e.cfg ∧
    AdvSuccessor e.cfg (countedGain e) e.curve e'.curve)

/-! ### Iterated runs -/

/-- `k` ADV commands of voice `v` one after the other (R96's `ADV v × k`), stopping where one does not answer a next state. -/
def advTimes (v : Nat) : Nat → State → Result
  | 0, s => .next s
  | k + 1, s =>
    match exec (.adv v) s with
    | .next t => advTimes v k t
    | .fault f => .fault f
    | .refused r => .refused r

/-- The frames of `k` SRC_NEXT calls, in order, and the state after them. -/
def srcFrames : Nat → State → List Frame32 × State
  | 0, s => ([], s)
  | k + 1, s =>
    let r := srcNext s
    let rest := srcFrames k r.2
    (r.1 :: rest.1, rest.2)

/-- The frames of `k` CONVERT steps, in order, and the state after them. -/
def convertFrames : Nat → State → List Frame32 × State
  | 0, s => ([], s)
  | k + 1, s =>
    let rest := convertFrames k (convert s).2
    ((convert s).1 :: rest.1, rest.2)

/-- The numbers of SRC_NEXT calls of `k` CONVERT steps, in order, and the state after them. -/
def convertPulls : Nat → State → List Nat × State
  | 0, s => ([], s)
  | k + 1, s =>
    let rest := convertPulls k (convert s).2
    ((advancePhase s).1 :: rest.1, rest.2)

end Sys2Proof.Machine
end

