-- ==== Sys2Proof/Certificates/Slice0/Obligations.lean ====
section
/-! DEFINITION. The statements for the provers, each from numbered rules of spec/ (its entry in OBLIGATIONS.json cites them).
Where a statement rests on a choice of the model rather than of the spec, its docstring says so. -/

open Sys2Proof Sys2Proof.Machine

/-! ### Encoding -/

/-- Every well-formed instruction is read back from its own code word: no operand bit is dropped (R80, R81, R97, R99). -/
def Obligations.DecodeReadsBackEveryEncoding : Prop :=
  ∀ i : Instr, i.WellFormed → decode (encode i) = .ok i

/-- Each code word has one meaning: what the decoder accepts is well-formed and is encoded as that very word (R80 to R83). -/
def Obligations.EncodeReturnsEveryDecodedWord : Prop :=
  ∀ c i, decode c = .ok i → i.WellFormed ∧ encode i = c

/-- A command word is an operation exactly when some row of R81 selects it by mask and match, and then the operation is that
row's. -/
def Obligations.CommandDecodesExactlyByTableRow : Prop :=
  ∀ w : BitVec 32,
    ((∃ i, decode (.cmd w) = .ok i) ↔ ∃ r ∈ cmdRows, r.selects (.cmd w) = true) ∧
    (∀ i, decode (.cmd w) = .ok i → (opRow i).selects (.cmd w) = true ∧
      ∀ r ∈ cmdRows, r.selects (.cmd w) = true → r = opRow i)

/-- R92: a word with a reserved `op`, a reserved bit, a voice where none is taken or a high byte in a byte command matches no
row, and a word that matches no row is refused as `BadCommand` on either agent's port: it is taken off the port and changes
nothing but the mark on the run (the form of the mark is the model's, log entry 17). -/
def Obligations.UnlistedCommandWordIsRefused : Prop :=
  (∀ w : BitVec 32,
    (opField w).toNat = 0 ∨ 12 ≤ (opField w).toNat ∨ z1Field w ≠ 0#1 ∨ z2Field w ≠ 0#8 ∨
      (voiceField w ≠ 0#3 ∧ (opField w).toNat ∈ [6, 7, 9, 10, 11]) ∨
      (highByteField w ≠ 0#8 ∧ (opField w).toNat ∈ [2, 6, 7]) →
    ∀ r ∈ cmdRows, r.selects (.cmd w) = false) ∧
  (∀ (w : BitVec 32) (s : State), (∀ r ∈ cmdRows, r.selects (.cmd w) = false) →
    (∀ a, runFor a (.cmd w) s = .refused .badCommand) ∧
    (∀ ts rest b, s.prodIn = ⟨.cmd w, b⟩ :: rest →
      step { s with turns := .producer :: ts } = thenPublish (.next
        { publishIfDue s with turns := ts, prodIn := rest, refusals := s.refusals ++ [.badCommand] })) ∧
    (∀ t ts rest, t = .consumer ∨ t = .consumerPart → s.pulling = none → s.consIn = w :: rest →
      step { s with turns := t :: ts } =
        .next { s with turns := ts, consIn := rest, refusals := s.refusals ++ [.badCommand] }))

/-- Every register word is a decoding case of KON: the first row of its format, in file order, that selects it (R99, R91). -/
def Obligations.RegisterWordDecodesByFirstRow : Prop :=
  (∀ v (w : BitVec 16), v < 8 → ∃ i, decode (.adsr16 v w) = .ok i ∧ i.voice? = some v ∧
    [opRow (.konDecay 0 0 0 0), opRow (.konAttack 0 0 0 0 0), opRow (.konGainsel 0 0 0 0 0)].find?
      (fun r => r.selects (.adsr16 v w)) = some (opRow i)) ∧
  (∀ v (b : BitVec 8), v < 8 → ∃ i, decode (.gain8 v b) = .ok i ∧ i.voice? = some v ∧
    [opRow (.konDirect 0 0), opRow (.konHoldmax 0 0), opRow (.konHoldzero 0 0), opRow (.konLindecr 0 0),
     opRow (.konExpdecr 0 0), opRow (.konLinincr 0 0), opRow (.konBentincr 0 0)].find?
      (fun r => r.selects (.gain8 v b)) = some (opRow i))

/-- A few code words written out from the spec's encodings decode to the instructions they stand for (R80 to R83, R99). -/
def Obligations.SpecSampleWordsDecode : Prop :=
  decode (.cmd 0b00010011000000000000000010000000#32) = .ok (.wradsr 3 0x0080#16) ∧
  decode (.cmd 0b00100000000000000000000011011111#32) = .ok (.wrgain 0 0xDF#8) ∧
  decode (.cmd 0b01000101000000000000000000000000#32) = .ok (.koff 5) ∧
  decode (.cmd 0b10110000000000000000000100000000#32) = .ok (.pull 256#16) ∧
  decode (.adsr16 2 0b1000111111111111#16) = .ok (.konDecay 2 4#3 15#5 7#3) ∧
  decode (.gain8 6 0b11101010#8) = .ok (.konBentincr 6 10#5)

/-- R97: packing concatenates the fields; packing and field extraction are inverse on all ADSR words and gain bytes, and the map to decoded values is not
injective where `gain_param` is 0. -/
def Obligations.RegisterWordsPackAndUnpack : Prop :=
  (∀ (sl : BitVec 3) (sr : BitVec 5) (en : BitVec 1) (d : BitVec 3) (a : BitVec 4),
    encodeAdsr sl sr en d a = sl ++ sr ++ en ++ d ++ a) ∧
  (∀ l : BitVec 7, encodeGainDirect l = 0#1 ++ l) ∧
  (∀ (m : BitVec 2) (p : BitVec 5), encodeGainCurve m p = 1#1 ++ m ++ p) ∧
  (∀ w : BitVec 16, encodeAdsr (slField w) (srField w) (enField w) (dField w) (aField w) = w) ∧
  (∀ sl sr en d a, slField (encodeAdsr sl sr en d a) = sl ∧ srField (encodeAdsr sl sr en d a) = sr ∧
    enField (encodeAdsr sl sr en d a) = en ∧ dField (encodeAdsr sl sr en d a) = d ∧
    aField (encodeAdsr sl sr en d a) = a) ∧
  (∀ b : BitVec 8, (directFlag b = 0#1 → encodeGainDirect (levelField b) = b) ∧
    (directFlag b = 1#1 → encodeGainCurve (modeField b) (paramField b) = b)) ∧
  (∀ l, directFlag (encodeGainDirect l) = 0#1 ∧ levelField (encodeGainDirect l) = l) ∧
  (∀ m p, directFlag (encodeGainCurve m p) = 1#1 ∧ modeField (encodeGainCurve m p) = m ∧
    paramField (encodeGainCurve m p) = p) ∧
  (∀ m : BitVec 2, m.toNat < 2 →
    gainCurve (decodeGain (encodeGainCurve m 0#5)) = gainCurve (decodeGain 0x7E#8) ∧
    gainCurve (decodeGain (encodeGainCurve m 0#5)) = .static 2016) ∧
  (∀ m : BitVec 2, 2 ≤ m.toNat →
    gainCurve (decodeGain (encodeGainCurve m 0#5)) = gainCurve (decodeGain 0x00#8) ∧
    gainCurve (decodeGain (encodeGainCurve m 0#5)) = .static 0)

/-! ### Key-on -/

/-- R84 to R87 and R130 with R112 and R113 written out: the four tables entry by entry; and KON replaces the slot by a fresh
envelope decoded through them from the voice's two registers and changes nothing else; the voice is then not muted. -/
def Obligations.KonInstallsTheInitialCurve : Prop :=
  (List.range 16).map (fun i => attackStep (BitVec.ofNat 4 i)) =
    [some 2048, some 1280, some 768, some 512, some 320, some 192, some 128, some 80,
     some 48, some 32, some 20, some 12, some 8, some 5, some 3, none] ∧
  (List.range 8).map (fun i => decayStep (BitVec.ofNat 3 i)) = [64, 40, 24, 16, 10, 6, 4, 2] ∧
  (List.range 8).map (fun i => sustainLevel (BitVec.ofNat 3 i)) = [255, 511, 767, 1023, 1279, 1535, 1791, 2047] ∧
  (∀ i : BitVec 3, sustainLevel i = (i.toNat + 1) * 256 - 1) ∧
  (List.range 32).map (fun i => stepS (BitVec.ofNat 5 i)) =
    [none, some 2048, some 1536, some 1280, some 1024, some 768, some 640, some 512,
     some 384, some 320, some 256, some 192, some 160, some 128, some 96, some 80,
     some 64, some 48, some 40, some 32, some 24, some 20, some 16, some 12,
     some 10, some 8, some 6, some 5, some 4, some 3, some 2, some 1] ∧
  ∀ (s : State) (v : Voice),
    decode (.cmd (packCmd 0x3#4 (BitVec.ofNat 3 v) 0#16)) = .ok (.kon v) ∧
    ∃ c g,
      exec (.kon v) s = .next { s with env := s.env.set v (some ⟨c, g, 0,
        ⟨decayStep (dField s.adsr[v]), sustainLevel (slField s.adsr[v]), stepS (srField s.adsr[v])⟩⟩) } ∧
      mutedEnv (some ⟨c, g, 0, snapshotOf s.adsr[v]⟩) = false ∧
      (enField s.adsr[v] = 1#1 →
        (∀ n, attackStep (aField s.adsr[v]) = some n → c = .attack n ∧ g = 0) ∧
        (attackStep (aField s.adsr[v]) = none → c = .decay (decayStep (dField s.adsr[v])) ∧ g = 2016)) ∧
      (enField s.adsr[v] = 0#1 → directFlag s.gain[v] = 0#1 →
        c = .static ((levelField s.gain[v]).toNat * 16) ∧ g = ((levelField s.gain[v]).toNat * 16 : Nat)) ∧
      (enField s.adsr[v] = 0#1 → directFlag s.gain[v] = 1#1 → stepS (paramField s.gain[v]) = none →
        ((modeField s.gain[v]).toNat < 2 → c = .static 2016 ∧ g = 2016) ∧
        (2 ≤ (modeField s.gain[v]).toNat → c = .static 0 ∧ g = 0)) ∧
      (enField s.adsr[v] = 0#1 → directFlag s.gain[v] = 1#1 → ∀ n, stepS (paramField s.gain[v]) = some n →
        (modeField s.gain[v] = 0#2 → c = .linDecr n ∧ g = 2016) ∧
        (modeField s.gain[v] = 1#2 → c = .expDecr n ∧ g = 2016) ∧
        (modeField s.gain[v] = 2#2 → c = .linIncr n ∧ g = 0) ∧
        (modeField s.gain[v] = 3#2 → c = .bentIncr n ∧ g = 0))

/-- KON is the decoding case its registers select: the ADSR16 case of `ADSR[v]`, and where that is `KON.GAINSEL` the GAIN8
case of `GAIN[v]` (R99). The two decoding cases are executed by themselves, which is the model's choice (log entry 8). -/
def Obligations.KonIsTheDecodingCaseOfItsRegisters : Prop :=
  ∀ (s : State) (v : Voice),
    (∃ i, decode (.adsr16 v s.adsr[v]) = .ok i ∧ exec (.kon v) s = exec i s) ∧
    (enField s.adsr[v] = 0#1 → ∃ j, decode (.gain8 v s.gain[v]) = .ok j ∧ exec (.kon v) s = exec j s)

/-- The three ADSR16 cases complete and install what their rows say (R99, R112 lines 1 and 2); frame: nothing else changes. -/
def Obligations.AdsrCasesInstallTheirCurves : Prop :=
  ∀ (s : State) (v : Voice) (sl : BitVec 3) (sr : BitVec 5) (d : BitVec 3) (a : BitVec 4),
    exec (.konDecay v sl sr d) s =
      .next { s with env := s.env.set v (some
        ⟨.decay (decayStep d), 2016, 0, ⟨decayStep d, sustainLevel sl, stepS sr⟩⟩) } ∧
    (∀ n, attackStep a = some n → exec (.konAttack v sl sr d a) s =
      .next { s with env := s.env.set v (some ⟨.attack n, 0, 0, ⟨decayStep d, sustainLevel sl, stepS sr⟩⟩) }) ∧
    (a = 15#4 → exec (.konAttack v sl sr d a) s = exec (.konDecay v sl sr d) s) ∧
    (∃ e, exec (.konGainsel v sl sr d a) s = .next { s with env := s.env.set v (some e) } ∧
      e.cfg = ⟨decayStep d, sustainLevel sl, stepS sr⟩ ∧ e.counter = 0 ∧
      e.curve = gainCurve (decodeGain s.gain[v]) ∧ some e.gain = initialGain e.curve)

/-- The seven GAIN8 cases complete and install what their rows say (R99, R88, R91, R112 lines 3 to 9), with the snapshot of
`ADSR[v]` (R130); frame: nothing else changes. -/
def Obligations.GainCasesInstallTheirCurves : Prop :=
  ∀ (s : State) (v : Voice) (level : BitVec 7) (m : BitVec 1) (p : BitVec 5) (n : Nat),
    let put : Curve → Int → Result := fun c g => .next { s with env := s.env.set v (some ⟨c, g, 0,
      ⟨decayStep (dField s.adsr[v]), sustainLevel (slField s.adsr[v]), stepS (srField s.adsr[v])⟩⟩) }
    exec (.konDirect v level) s = put (.static (level.toNat * 16)) (level.toNat * 16 : Nat) ∧
    exec (.konHoldmax v m) s = put (.static 2016) 2016 ∧
    exec (.konHoldzero v m) s = put (.static 0) 0 ∧
    (stepS p = some n →
      exec (.konLindecr v p) s = put (.linDecr n) 2016 ∧
      exec (.konExpdecr v p) s = put (.expDecr n) 2016 ∧
      exec (.konLinincr v p) s = put (.linIncr n) 0 ∧
      exec (.konBentincr v p) s = put (.bentIncr n) 0) ∧
    (stepS p = none →
      exec (.konLindecr v p) s = put (.static 2016) 2016 ∧
      exec (.konExpdecr v p) s = put (.static 2016) 2016 ∧
      exec (.konLinincr v p) s = put (.static 0) 0 ∧
      exec (.konBentincr v p) s = put (.static 0) 0)

/-- R148 and R221: only a key-on operation of the voice makes an absent envelope present; a key-on leaves the slot in a curve that
is neither `Fade` nor `Sustain`, whatever stood there; and the constructor refuses exactly those two. -/
def Obligations.NoEnvelopeStartsInFadeOrSustain : Prop :=
  (∀ i (s t : State) (v : Voice) e, exec i s = .next t → s.env[v] = none → t.env[v] = some e →
    isKeyOn i = true ∧ i.voice? = some v.val ∧ e.curve.isFirst = true) ∧
  (∀ i (s t : State) (v : Voice), isKeyOn i = true → i.voice? = some v.val → exec i s = .next t →
    ∃ e, t.env[v] = some e ∧ e.curve.isFirst = true) ∧
  (∀ cfg, construct .fade cfg = .error (.constructError .fade)) ∧
  (∀ n cfg, construct (.sustain n) cfg = .error (.constructError (.sustain n))) ∧
  (∀ c cfg, c.isFirst = true → ∃ e, construct c cfg = .ok e ∧ e.curve = c ∧ e.counter = 0 ∧ e.cfg = cfg ∧
    initialGain c = some e.gain)

/-! ### Registers -/

/-- R114, R115: a register write latches its operand and changes nothing else. -/
def Obligations.VoiceRegisterWritesOnlyLatch : Prop :=
  (∀ (s : State) (v : Voice) (imm : BitVec 16),
    decode (.cmd (packCmd 0x1#4 (BitVec.ofNat 3 v) imm)) = .ok (.wradsr v imm) ∧
    exec (.wradsr v imm) s = .next { s with adsr := s.adsr.set v imm }) ∧
  (∀ (s : State) (v : Voice) (imm : BitVec 8),
    decode (.cmd (packCmd 0x2#4 (BitVec.ofNat 3 v) (0#8 ++ imm))) = .ok (.wrgain v imm) ∧
    exec (.wrgain v imm) s = .next { s with gain := s.gain.set v imm })

/-- R116, R117: the main volume writes. -/
def Obligations.MainVolumeWrites : Prop :=
  ∀ (s : State) (imm : BitVec 8),
    decode (.cmd (packCmd 0x6#4 0#3 (0#8 ++ imm))) = .ok (.wrmvoll imm) ∧
    exec (.wrmvoll imm) s = .next { s with mvolL := imm } ∧
    decode (.cmd (packCmd 0x7#4 0#3 (0#8 ++ imm))) = .ok (.wrmvolr imm) ∧
    exec (.wrmvolr imm) s = .next { s with mvolR := imm }

/-- R118, R32, R93: RDENVX answers the clamped gain view and changes nothing but the result port (the model's own). -/
def Obligations.RdenvxAnswersTheGainView : Prop :=
  ∀ (s : State) (v : Voice),
    decode (.cmd (packCmd 0x5#4 (BitVec.ofNat 3 v) 0#16)) = .ok (.rdenvx v) ∧
    ∃ x : BitVec 8, exec (.rdenvx v) s = .next { s with envxOut := x } ∧ x.toNat ≤ 127 ∧
      (s.env[v] = none → x = 0#8) ∧
      (∀ e, s.env[v] = some e →
        (e.gain < 0 → x.toNat = 0) ∧
        (0 ≤ e.gain → e.gain ≤ 2047 → (x.toNat : Int) = e.gain / 16) ∧
        (2047 < e.gain → x.toNat = 127))

/-- R74: a write to `ADSR[v]` or `GAIN[v]` is seen by the key-on operations and by no other: every other operation does the
same whatever those registers hold. -/
def Obligations.OnlyKeyOnSeesTheVoiceRegisters : Prop :=
  ∀ i (s : State) (a : Vector (BitVec 16) 8) (g : Vector (BitVec 8) 8), isKeyOn i = false →
    match exec i s with
    | .next t => ∃ t', exec i { s with adsr := a, gain := g } = .next t' ∧
        { t' with adsr := t.adsr, gain := t.gain } = t
    | .fault f => exec i { s with adsr := a, gain := g } = .fault f
    | .refused r => exec i { s with adsr := a, gain := g } = .refused r

/-! ### Envelopes -/

/-- R131: KOFF forces `Fade` and counter 0 and keeps gain and snapshot, does nothing to an absent envelope, is idempotent, and
mutes at once a gain at or below 0. -/
def Obligations.KoffForcesFade : Prop :=
  ∀ (s : State) (v : Voice),
    decode (.cmd (packCmd 0x4#4 (BitVec.ofNat 3 v) 0#16)) = .ok (.koff v) ∧
    (s.env[v] = none → exec (.koff v) s = .next s) ∧
    (∀ e, s.env[v] = some e → exec (.koff v) s =
      .next { s with env := s.env.set v (some ⟨.fade, e.gain, 0, e.cfg⟩) } ∧
      (e.curve = .fade → e.counter = 0 → exec (.koff v) s = .next s)) ∧
    (∀ t, exec (.koff v) s = .next t → exec (.koff v) t = .next t ∧
      (∀ e, s.env[v] = some e → e.gain ≤ 0 → t.muted v = true))

/-- R150, R222: an absent envelope, and a muted one, answers `Exhausted` as often as ADV is called and nothing changes but the
result port. -/
def Obligations.AdvOnMutedVoiceIsExhausted : Prop :=
  ∀ (s : State) (v : Voice),
    decode (.cmd (packCmd 0x8#4 (BitVec.ofNat 3 v) 0#16)) = .ok (.adv v) ∧
    (s.env[v] = none → s.muted v = true ∧ exec (.adv v) s = .next { s with advOut := 0#17 }) ∧
    (∀ e, s.env[v] = some e → (s.muted v = true ↔ e.curve = .fade ∧ e.gain ≤ 0)) ∧
    (s.muted v = true → exec (.adv v) s = .next { s with advOut := 0#17 })

/-- R133, R134: one ADV in `Attack(n)`. -/
def Obligations.AdvInAttack : Prop :=
  ∀ (s : State) (v : Voice) e n, s.env[v] = some e → e.curve = .attack n →
    let g := if n ≤ e.counter + 1 then e.gain + 32 else e.gain
    let k := if n ≤ e.counter + 1 then 0 else e.counter + 1
    exec (.adv v) s = .next { s with
      env := s.env.set v (some (if 2016 ≤ g then ⟨.decay e.cfg.decayStep, 2016, 0, e.cfg⟩ else ⟨.attack n, g, k, e.cfg⟩))
      advOut := 1#1 ++ BitVec.ofInt 16 e.gain }

/-- R133, R135: one ADV in `Decay(n)`; the check runs on every tick and enters `Sustain` or, without a step, the held level. -/
def Obligations.AdvInDecay : Prop :=
  ∀ (s : State) (v : Voice) e n, s.env[v] = some e → e.curve = .decay n →
    let g := if n ≤ e.counter + 1 then e.gain - ((e.gain - 1) / 256 + 1) else e.gain
    let k := if n ≤ e.counter + 1 then 0 else e.counter + 1
    exec (.adv v) s = .next { s with
      env := s.env.set v (some (
        if g ≤ e.cfg.sustainLevel then
          match e.cfg.srStep with
          | some m => ⟨.sustain m, g, 0, e.cfg⟩
          | none => ⟨.static e.cfg.sustainLevel, e.cfg.sustainLevel, 0, e.cfg⟩
        else ⟨.decay n, g, k, e.cfg⟩))
      advOut := 1#1 ++ BitVec.ofInt 16 e.gain }

/-- R133, R136, R140: one ADV in `Sustain(n)` or `ExpDecr(n)`. -/
def Obligations.AdvInSustainAndExpDecr : Prop :=
  ∀ (s : State) (v : Voice) e n, s.env[v] = some e → e.curve = .sustain n ∨ e.curve = .expDecr n →
    let g := if n ≤ e.counter + 1 then e.gain - ((e.gain - 1) / 256 + 1) else e.gain
    let k := if n ≤ e.counter + 1 then 0 else e.counter + 1
    exec (.adv v) s = .next { s with
      env := s.env.set v (some (if g ≤ 0 then ⟨.static 0, 0, 0, e.cfg⟩ else ⟨e.curve, g, k, e.cfg⟩))
      advOut := 1#1 ++ BitVec.ofInt 16 e.gain }

/-- R133, R139: one ADV in `LinDecr(n)`. -/
def Obligations.AdvInLinDecr : Prop :=
  ∀ (s : State) (v : Voice) e n, s.env[v] = some e → e.curve = .linDecr n →
    let g := if n ≤ e.counter + 1 then e.gain - 32 else e.gain
    let k := if n ≤ e.counter + 1 then 0 else e.counter + 1
    exec (.adv v) s = .next { s with
      env := s.env.set v (some (if g ≤ 0 then ⟨.static 0, 0, 0, e.cfg⟩ else ⟨.linDecr n, g, k, e.cfg⟩))
      advOut := 1#1 ++ BitVec.ofInt 16 e.gain }

/-- R133, R137, R138: one ADV in `LinIncr(n)` or `BentIncr(n)`; the bent line's delta is chosen by the gain before it. -/
def Obligations.AdvInLinIncrAndBentIncr : Prop :=
  ∀ (s : State) (v : Voice) e n, s.env[v] = some e → e.curve = .linIncr n ∨ e.curve = .bentIncr n →
    let delta : Int := if e.curve = .bentIncr n ∧ 1536 ≤ e.gain then 8 else 32
    let g := if n ≤ e.counter + 1 then e.gain + delta else e.gain
    let k := if n ≤ e.counter + 1 then 0 else e.counter + 1
    exec (.adv v) s = .next { s with
      env := s.env.set v (some (if 2016 ≤ g then ⟨.static 2016, 2016, 0, e.cfg⟩ else ⟨e.curve, g, k, e.cfg⟩))
      advOut := 1#1 ++ BitVec.ofInt 16 e.gain }

/-- R141, R142: one ADV in `Fade` and in `Static(l)`. -/
def Obligations.AdvInFadeAndStatic : Prop :=
  ∀ (s : State) (v : Voice) e, s.env[v] = some e →
    (e.curve = .fade → 0 < e.gain → exec (.adv v) s = .next { s with
      env := s.env.set v (some ⟨.fade, e.gain - 8, e.counter, e.cfg⟩)
      advOut := 1#1 ++ BitVec.ofInt 16 e.gain }) ∧
    (e.curve = .fade → e.gain ≤ 0 → exec (.adv v) s = .next { s with advOut := 0#17 }) ∧
    (∀ l, e.curve = .static l → exec (.adv v) s = .next { s with advOut := 1#1 ++ BitVec.ofNat 16 l })

/-- R143: the exponential delta is the ceiling of a 256th, is 0 at 0, and takes 2016 to 0 in exactly 691 steps, 28 of size 8
down to 256 of size 1. -/
def Obligations.ExpDeltaSteps : Prop :=
  (∀ g : Int, expDelta g = -((g - 1) / 256 + 1)) ∧
  (∀ g : Int, 1 ≤ g → g ≤ 2048 →
    -expDelta g = (g + 255) / 256 ∧ 1 ≤ -expDelta g ∧ -expDelta g ≤ 8) ∧
  expDelta 0 = 0 ∧
  (∀ k, ((fun g => g + expDelta g)^[k] (2016 : Int) = 0 ↔ 691 ≤ k)) ∧
  [8, 7, 6, 5, 4, 3, 2, 1].map (fun d : Int =>
    ((List.range 691).filter fun k => expDelta ((fun g => g + expDelta g)^[k] 2016) == -d).length) =
    [28, 37, 43, 51, 63, 86, 127, 256]

/-- R144: an ADV that enters `Static(l)` from another curve leaves gain `l` and counter 0, so the next sample, ENVX and a
later fade's start agree. -/
def Obligations.EnteringStaticSetsTheGain : Prop :=
  ∀ (s t : State) (v : Voice) e e' l, s.env[v] = some e → (∀ l', e.curve ≠ .static l') →
    exec (.adv v) s = .next t → t.env[v] = some e' → e'.curve = .static l →
    e'.gain = l ∧ e'.counter = 0 ∧
    (∃ u, exec (.adv v) t = .next u ∧ u.advOut = 1#1 ++ BitVec.ofNat 16 l ∧ u.env = t.env) ∧
    (l ≤ 2047 → (t.envx v).toNat = l / 16) ∧
    (∃ u e'', exec (.koff v) t = .next u ∧ u.env[v] = some e'' ∧ e''.gain = l ∧ e''.curve = .fade)

/-- R146: the step-count laws, from a fresh envelope with step `n`, and from `Fade` with gain `G`: the run of ADV commands
reaches the end of its curve at that count and not before. -/
def Obligations.StepCountLaws : Prop :=
  ∀ (s : State) (v : Voice) (n : Nat) (cfg : EnvCfg), 1 ≤ n →
    let reach : Curve → Int → Nat → Curve → Int → Prop := fun c g count c' g' =>
      s.env[v] = some ⟨c, g, 0, cfg⟩ →
        (∃ t, advTimes v count s = .next t ∧ t.env[v] = some ⟨c', g', 0, cfg⟩) ∧
        ∀ k, k < count → ∃ u e, advTimes v k s = .next u ∧ u.env[v] = some e ∧ e.curve = c
    reach (.attack n) 0 (63 * n) (.decay cfg.decayStep) 2016 ∧
    reach (.linIncr n) 0 (63 * n) (.static 2016) 2016 ∧
    reach (.bentIncr n) 0 (108 * n) (.static 2016) 2016 ∧
    reach (.linDecr n) 2016 (63 * n) (.static 0) 0 ∧
    reach (.expDecr n) 2016 (691 * n) (.static 0) 0 ∧
    (∀ G : Nat, 1 ≤ G → s.env[v] = some ⟨.fade, G, 0, cfg⟩ →
      (∀ k, k < (G + 7) / 8 → ∃ u t, advTimes v k s = .next u ∧ exec (.adv v) u = .next t ∧
        t.advOut = 1#1 ++ BitVec.ofInt 16 (G - 8 * k)) ∧
      ∃ t, advTimes v ((G + 7) / 8) s = .next t ∧ t.muted v = true)

/-- R147: bounds and monotonicity of one ADV on an envelope that meets the invariants of R29. In `Decay` and `ExpDecr` a delta
lowers a gain of at least 1, also where it ends the curve, and the gain after the ADV is the gain after the delta; only the tick
that enters `Static(sustain_level)` puts the level there instead (C12). -/
def Obligations.GainBoundsAndMonotonicity : Prop :=
  ∀ e, EnvInv e →
    (e.curve ≠ .fade → 0 ≤ (advEnv e).2.gain ∧
      ((advEnv e).2.gain ≤ 2016 ∨ ∃ l, (advEnv e).2.curve = .static l ∧ (advEnv e).2.gain = l ∧ l ≤ 2047)) ∧
    (∀ n, e.curve = .decay n ∨ e.curve = .expDecr n → 1 ≤ e.gain →
      (n ≤ e.counter + 1 → countedGain e < e.gain) ∧ (e.counter + 1 < n → countedGain e = e.gain) ∧
      ((advEnv e).2.gain = countedGain e ∨
        e.curve = .decay n ∧ (advEnv e).2.curve = .static e.cfg.sustainLevel ∧ (advEnv e).2.gain = e.cfg.sustainLevel)) ∧
    (∀ n, e.curve = .attack n ∨ e.curve = .linIncr n ∨ e.curve = .bentIncr n → e.gain ≤ (advEnv e).2.gain) ∧
    (∀ n, e.curve = .decay n ∨ e.curve = .sustain n ∨ e.curve = .linDecr n ∨ e.curve = .expDecr n ∨ e.curve = .fade →
      (advEnv e).2.curve = e.curve → (advEnv e).2.gain ≤ e.gain) ∧
    (∀ x, (advEnv e).1 = .sample x → x = e.gain ∧ 0 ≤ x ∧ x ≤ 2047 ∧ (e.curve = .fade → 1 ≤ x))

/-- R145: the successor relation is complete: an operation leaves a voice's envelope as it was, or starts one (KON and its
cases), or forces `Fade` (KOFF of a present envelope), or takes one step of the graph, for the cause the table gives (ADV of the
voice, TICK); and a step that is no reset moves an envelope only so, by the producer's command that it runs. -/
def Obligations.CurvesFollowTheTransitionGraph : Prop :=
  (∀ i (s t : State) (v : Voice), exec i s = .next t → SlotMoves i v s.env[v] t.env[v]) ∧
  (∀ (s t : State) (v : Voice), s.resetDue = false → step s = .next t →
    t.env[v] = s.env[v] ∨
    ∃ ts c b rest i, s.turns = .producer :: ts ∧ s.prodIn = ⟨c, b⟩ :: rest ∧ decode c = .ok i ∧
      SlotMoves i v s.env[v] t.env[v])

/-- R149: KON, KOFF and ADV of a voice write only that voice's slot, and what they do there and answer depends on that voice's
registers and slot alone. -/
def Obligations.VoicesAreIndependent : Prop :=
  ∀ (v : Voice) i, i = .adv v ∨ i = .kon v ∨ i = .koff v →
    (∀ s t, exec i s = .next t → t = { s with env := s.env.set v t.env[v], advOut := t.advOut }) ∧
    (∀ s s' t t', s.adsr[v] = s'.adsr[v] → s.gain[v] = s'.gain[v] → s.env[v] = s'.env[v] → s.advOut = s'.advOut →
      exec i s = .next t → exec i s' = .next t' → t.env[v] = t'.env[v] ∧ t.advOut = t'.advOut) ∧
    (∀ s, ∃ t, exec i s = .next t)

/-! ### Mixer -/

/-- R170, R172, R176, R177: an enabled TICK advances every slot once, adds the eight terms of each channel in voice order
with 16-bit saturation at each addition, appends the frame, and changes nothing else. -/
def Obligations.TickMixesTheVoicesInOrder : Prop :=
  ∀ (s : State), s.closed = false → s.pkt.length < s.params.packetFrames →
    let term : BitVec 8 → Voice → Int := fun m v =>
      match s.env[v].map advEnv with
      | some (.sample g, _) => voiceTerm s.params g s.brrIn[v] m
      | _ => 0
    let sum : BitVec 8 → Int := fun m =>
      [0, 1, 2, 3, 4, 5, 6, 7].foldl (fun acc (v : Voice) => min 32767 (max (-32768) (acc + term m v))) 0
    ∃ env : Vector (Option Env) 8,
      exec .tick s = .next { s with
        env := env
        pkt := s.pkt ++ [⟨BitVec.ofInt 16 (sum s.mvolL), BitVec.ofInt 16 (sum s.mvolR)⟩] } ∧
      (∀ v : Voice, env[v] = s.env[v].map fun e => (advEnv e).2) ∧
      -32768 ≤ sum s.mvolL ∧ sum s.mvolL ≤ 32767 ∧ -32768 ≤ sum s.mvolR ∧ sum s.mvolR ≤ 32767

/-- R171: the voice term, and at the default shifts its bound, so that its own saturation never alters it. -/
def Obligations.VoiceTermIsScaledAndBounded : Prop :=
  ∀ (p : Config.Params) (g : Int) (brr : BitVec 16) (m : BitVec 8),
    voiceTerm p g brr m =
      min 32767 (max (-32768) (g * brr.toInt / 2 ^ p.mixEnvShift * m.toInt / 2 ^ p.mixVolShift)) ∧
    (0 ≤ g → g ≤ 2047 → p.mixEnvShift = 11 → p.mixVolShift = 7 →
      -32752 ≤ g * brr.toInt / 2048 ∧ g * brr.toInt / 2048 ≤ 32751 ∧
      -32752 ≤ g * brr.toInt / 2048 * m.toInt / 128 ∧ g * brr.toInt / 2048 * m.toInt / 128 ≤ 32752 ∧
      voiceTerm p g brr m = g * brr.toInt / 2048 * m.toInt / 128) ∧
    voiceTerm p 0 brr m = 0

/-- R174, R189: a TICK after CLOSE is refused, and a TICK that finds the packet full waits: it stays at the head of its port
with its samples and nothing else changes. That it waits in the port is the model's form of the hold (log entry 10). -/
def Obligations.TickIsRefusedOrHeldWhenNotEnabled : Prop :=
  ∀ (s : State),
    (s.closed = true → exec .tick s = .refused .tickAfterClose) ∧
    (s.closed = false → s.params.packetFrames ≤ s.pkt.length →
      exec .tick s = .next { s with prodIn := ⟨.cmd 0x90000000#32, s.brrIn⟩ :: s.prodIn }) ∧
    (s.tickEnabled = true ↔ s.pkt.length < s.params.packetFrames ∧ s.closed = false)

/-- R177, R251: with every voice muted an enabled TICK writes the frame (0, 0), whatever the samples and the volumes, and
leaves the envelopes as they are. -/
def Obligations.SilentTickWritesTheZeroFrame : Prop :=
  ∀ (s : State), s.closed = false → s.pkt.length < s.params.packetFrames → (∀ v : Voice, s.muted v = true) →
    exec .tick s = .next { s with pkt := s.pkt ++ [⟨0#16, 0#16⟩] }

/-! ### Queue -/

/-- R185: PUBLISH is enabled on a full packet with room in an open queue; it appends a copy and empties the packet; a producer
turn runs it before the next command and again, at once, where that command has filled the packet. That the two PUBLISH and the
command are one step, and that a publish turn of its own runs PUBLISH alone, is how the model places it (log entry 20). -/
def Obligations.PublishMovesTheFullPacket : Prop :=
  ∀ (s : State),
    (s.publishEnabled = true ↔
      s.pkt.length = s.params.packetFrames ∧ s.q.length < s.params.queueCapacity ∧ s.closed = false) ∧
    (s.publishEnabled = true → publishIfDue s = { s with q := s.q ++ [s.pkt], pkt := [] }) ∧
    (s.publishEnabled = false → publishIfDue s = s) ∧
    (∀ ts, step { s with turns := .publish :: ts } = .next (publishIfDue { s with turns := ts })) ∧
    (∀ ts t, runProducer (publishIfDue { s with turns := ts }) = .next t →
      step { s with turns := .producer :: ts } = .next (publishIfDue t))

/-- R186: TryReceive removes and returns the oldest packet, and answers none at once on an empty queue. -/
def Obligations.TryReceiveTakesTheOldest : Prop :=
  ∀ (s : State),
    (∀ p rest, s.q = p :: rest → tryReceive s = (some p, { s with q := rest })) ∧
    (s.q = [] → tryReceive s = (none, s))

/-- R187: CLOSE closes the queue, discards the unpublished packet and keeps the queued ones; closing twice is closing once;
afterwards PUBLISH and TICK are never enabled again, TICK is refused, every other operation still runs, and no step but reset
reopens the queue or puts anything into it. -/
def Obligations.CloseIsFinal : Prop :=
  decode (.cmd (packCmd 0xA#4 0#3 0#16)) = .ok .close ∧
  (∀ s, exec .close s = .next { s with closed := true, pkt := [] }) ∧
  (∀ s t, exec .close s = .next t → exec .close t = .next t) ∧
  (∀ s, s.closed = true → s.publishEnabled = false ∧ s.tickEnabled = false ∧ exec .tick s = .refused .tickAfterClose) ∧
  (∀ s i, s.closed = true → i.WellFormed → i ≠ .tick → ∃ t, exec i s = .next t) ∧
  (∀ s t, s.closed = true → s.resetDue = false → step s = .next t → t.closed = true ∧ ∃ k, t.q = s.q.drop k)

/-- R189: in a stall a producer turn that finds a TICK leaves everything but the schedule and the presented samples as it was;
as soon as there is room the packet is published and the TICK runs; and the other producer commands need no room. -/
def Obligations.StallHoldsTheProducer : Prop :=
  ∀ (s : State) ts rest b, s.prodIn = ⟨.cmd 0x90000000#32, b⟩ :: rest →
    (s.stalled = true → step { s with turns := .producer :: ts } = .next { s with turns := ts, brrIn := b }) ∧
    (s.publishEnabled = true →
      step { s with turns := .producer :: ts } = thenPublish (exec .tick
        { s with turns := ts, prodIn := rest, brrIn := b, q := s.q ++ [s.pkt], pkt := [] })) ∧
    (∀ i, s.stalled = true → i.WellFormed → i ≠ .tick → ∃ t, exec i s = .next t)

/-- R70: first in, first out, over every step but reset: the queue loses packets at its head only and gains at its tail only the
full packet of an enabled PUBLISH; the order of the others is kept. The parameters meet the constraints of R6, as in every
state that meets the invariant. -/
def Obligations.QueueIsFirstInFirstOut : Prop :=
  ∀ (s t : State), s.params.Legal → s.resetDue = false → step s = .next t →
    ∃ (k : Nat) (added : List Packet), k ≤ s.q.length ∧ t.q = s.q.drop k ++ added ∧
      (s.closed = true → added = []) ∧
      (k ≠ 0 → added = []) ∧
      (∀ p ∈ added, p.length = s.params.packetFrames) ∧
      (added = [] ∨ added = [s.pkt] ∨ ∃ f, added = [s.pkt ++ [f]] ∨ added = [s.pkt, [f]])

/-- R39: the producer's operations leave what the consumer owns and the queue as they were, and the consumer's leave what the
producer owns and `closed`; and neither reads what the other owns: it does the same whatever stands there. The same of the turns:
the producer's, PUBLISH among them, and the consumer's, each part of a PULL among them. -/
def Obligations.AgentsKeepToTheirOwnState : Prop :=
  (∀ i (s t : State), exec i s = .next t →
    (i.agent = .producer → t.consumerOwned = s.consumerOwned ∧ t.q = s.q ∧ (i ≠ .close → t.closed = s.closed)) ∧
    (i.agent = .consumer → t.producerOwned = s.producerOwned ∧ t.closed = s.closed)) ∧
  (∀ i (s u : State),
    (i.agent = .producer → exec i (s.withConsumerOwned u) = mapNext (·.withConsumerOwned u) (exec i s)) ∧
    (i.agent = .consumer → exec i (s.withProducerOwned u) = mapNext (·.withProducerOwned u) (exec i s))) ∧
  (∀ k (s t : State), takeTurn k s = .next t →
    (k = .producer ∨ k = .publish → t.consumerOwned = s.consumerOwned ∧ t.pulling = s.pulling ∧ t.buffer = s.buffer ∧
      t.consIn = s.consIn ∧ ∃ added, t.q = s.q ++ added) ∧
    (k = .consumer ∨ k = .consumerPart → t.producerOwned = s.producerOwned ∧ t.closed = s.closed ∧ t.prodIn = s.prodIn ∧
      t.envxOut = s.envxOut ∧ t.advOut = s.advOut ∧ ∃ n, t.q = s.q.drop n)) ∧
  (∀ k (s u : State),
    (k = .producer ∨ k = .publish → takeTurn k (s.withConsumerOwned u) = mapNext (·.withConsumerOwned u) (takeTurn k s)) ∧
    (k = .consumer ∨ k = .consumerPart →
      takeTurn k (s.withProducerOwned u) = mapNext (·.withProducerOwned u) (takeTurn k s))) ∧
  (∀ k ts (s : State), step { s with turns := k :: ts } = takeTurn k { s with turns := ts })

/-- R38, R41: no step changes the parameters, `HOST_RATE` among them. -/
def Obligations.ParametersNeverChange : Prop :=
  ∀ (s t : State), step s = .next t → t.params = s.params

/-! ### Resampler -/

/-- R200: the five branches of SRC_NEXT, each with its frame and its effect. -/
def Obligations.SrcNextBranches : Prop :=
  ∀ (s : State),
    (∀ p f, s.curPkt = some p → s.curIdx < s.params.packetFrames → p[s.curIdx]? = some f →
      srcNext s = (toF32 f, { s with curIdx := s.curIdx + 1, lastFrame := toF32 f })) ∧
    ((∀ p, s.curPkt = some p → s.params.packetFrames ≤ s.curIdx) →
      (∀ p f fs rest, s.q = p :: rest → p = f :: fs →
        srcNext s = (toF32 f, { s with q := rest, curPkt := some p, curIdx := 1, lastFrame := toF32 f })) ∧
      (s.q = [] → s.closed = true → srcNext s = (Frame32.zero, s)) ∧
      (s.q = [] → s.closed = false → s.curPkt ≠ none →
        srcNext s = (damp s.lastFrame, { s with lastFrame := damp s.lastFrame })) ∧
      (s.q = [] → s.closed = false → s.curPkt = none → srcNext s = (Frame32.zero, s)))

/-- R201: the conversion of a 16-bit sample is exact: its value is the sample over 32768. -/
def Obligations.SampleConversionIsExact : Prop :=
  (∀ x : BitVec 16, F32Finite (i16ToF32 x) ∧ f32Value (i16ToF32 x) = (x.toInt : ℚ) / 32768) ∧
  (∀ f : Frame16, toF32 f = ⟨i16ToF32 f.left, i16ToF32 f.right⟩) ∧
  i16ToF32 0x8000#16 = 0xBF800000#32 ∧ i16ToF32 0x7FFF#16 = 0x3F7FFE00#32 ∧ i16ToF32 0x4000#16 = 0x3F000000#32 ∧
  i16ToF32 1#16 = 0x38000000#32 ∧ i16ToF32 0#16 = 0#32

/-- R11: on finite operands whose exact product lies below the overflow threshold of binary32, 2^128 - 2^103, `fmul32` answers a
finite pattern, of the product's sign, that no other finite pattern is nearer to the exact product than, and of two nearest the
one with the even fraction. -/
def Obligations.ProductIsRoundedToNearestEven : Prop :=
  ∀ a b : F32, F32Finite a → F32Finite b → |f32Value a * f32Value b| < 2 ^ 128 - 2 ^ 103 →
    F32Finite (fmul32 a b) ∧ f32Sign (fmul32 a b) = f32Sign a ^^^ f32Sign b ∧
    ∀ y : F32, F32Finite y →
      |f32Value (fmul32 a b) - f32Value a * f32Value b| ≤ |f32Value y - f32Value a * f32Value b| ∧
      (|f32Value (fmul32 a b) - f32Value a * f32Value b| = |f32Value y - f32Value a * f32Value b| →
        f32Value y ≠ f32Value (fmul32 a b) → f32Frac (fmul32 a b) % 2 = 0)

/-- R202: damping keeps a finite value finite, never changes its sign, never turns a non-zero value into zero, shrinks a
magnitude above 50 × 2^-149 and leaves the rest as they are, the two zeros and the subnormal 0x00000032 among them; with the
rule's three sequences. -/
def Obligations.DampingDecaysWithoutReachingZero : Prop :=
  Config.damp = 0x3F7D70A4#32 ∧ f32Value Config.damp = 4152361 / 4194304 ∧
  (∀ f, damp f = ⟨fmul32 f.left Config.damp, fmul32 f.right Config.damp⟩) ∧
  (∀ x : F32, F32Finite x →
    F32Finite (fmul32 x Config.damp) ∧ f32Sign (fmul32 x Config.damp) = f32Sign x ∧
    (f32IsZero x = false → f32IsZero (fmul32 x Config.damp) = false) ∧
    (|f32Value x| ≤ 50 * (2 : ℚ) ^ (-149 : Int) → fmul32 x Config.damp = x) ∧
    (50 * (2 : ℚ) ^ (-149 : Int) < |f32Value x| → |f32Value (fmul32 x Config.damp)| < |f32Value x|)) ∧
  fmul32 0x00000000#32 Config.damp = 0x00000000#32 ∧ fmul32 0x80000000#32 Config.damp = 0x80000000#32 ∧
  fmul32 0x00000032#32 Config.damp = 0x00000032#32 ∧
  (let next : F32 → List F32 := fun x => [1, 2, 3, 4].map fun k => (fun y => fmul32 y Config.damp)^[k] x
   next 0x3F000000#32 = [0x3EFD70A4#32, 0x3EFAE7D6#32, 0x3EF86585#32, 0x3EF5E9A0#32] ∧
   next 0xBF800000#32 = [0xBF7D70A4#32, 0xBF7AE7D6#32, 0xBF786585#32, 0xBF75E9A0#32] ∧
   next 0x3F7FFE00#32 = [0x3F7D6EA9#32, 0x3F7AE5E0#32, 0x3F786394#32, 0x3F75E7B4#32])

/-- R209: `n` SRC_NEXT calls in an underrun answer the last frame damped 1 to `n` times, and the call after a packet has come
answers that packet's first frame undamped. -/
def Obligations.UnderrunDampsThenPlaysTheNewPacket : Prop :=
  ∀ (s : State) (n : Nat), s.closed = false → s.q = [] → s.curPkt ≠ none → s.params.packetFrames ≤ s.curIdx →
    (srcFrames n s).1 = (List.range n).map (fun k => damp^[k + 1] s.lastFrame) ∧
    (srcFrames n s).2 = { s with lastFrame := damp^[n] s.lastFrame } ∧
    ∀ f fs, (srcNext { (srcFrames n s).2 with q := [f :: fs] }).1 = toF32 f

/-- R203: CONVERT advances the phase first, takes that many source frames into the ring, and evaluates INTERP on the ring and
the new phase; the ring keeps its length, and the number is at most the ceiling of 32000 / HOST_RATE. -/
def Obligations.ConvertAdvancesThenEvaluates : Prop :=
  ∀ (s : State),
    let n := (s.phaseNum + 32000) / s.params.hostRate
    let r := srcFrames n { s with phaseNum := (s.phaseNum + 32000) % s.params.hostRate }
    let ring := (s.ring ++ r.1).drop n
    1 ≤ s.ring.length →
      (convert s).2 = { r.2 with ring := ring } ∧
      (convert s).1 = Config.interp ring ((s.phaseNum + 32000) % s.params.hostRate) s.params.hostRate ∧
      ring.length = s.ring.length ∧
      (s.phaseNum < s.params.hostRate → n ≤ (32000 + s.params.hostRate - 1) / s.params.hostRate)

/-- R210: from phase 0, after `k` CONVERT steps `floor(k × 32000 / HOST_RATE)` source frames have been taken and the phase is
`k × 32000 mod HOST_RATE`; with the rule's four sequences. -/
def Obligations.ConvertPullCountLaw : Prop :=
  (∀ (s : State) (k : Nat), s.phaseNum = 0 → 1 ≤ s.params.hostRate →
    (convertPulls k s).1.sum = k * 32000 / s.params.hostRate ∧
    (convertPulls k s).2.phaseNum = k * 32000 % s.params.hostRate) ∧
  (∀ (s : State) (k : Nat), s.phaseNum = 0 → s.params.hostRate = 32000 →
    (convertPulls k s).1 = List.replicate k 1 ∧ (convertPulls k s).2.phaseNum = 0) ∧
  (∀ (s : State), s.phaseNum = 0 → s.params.hostRate = 44100 →
    (convertPulls 12 s).1 = [0, 1, 1, 0, 1, 1, 1, 0, 1, 1, 0, 1]) ∧
  (∀ (s : State), s.phaseNum = 0 → s.params.hostRate = 22050 →
    (convertPulls 12 s).1 = [1, 1, 2, 1, 2, 1, 2, 1, 2, 1, 1, 2]) ∧
  (∀ (s : State) (k : Nat), s.phaseNum = 0 → s.params.hostRate = 8000 → (convertPulls k s).1 = List.replicate k 4)

/-- R206, R98, R63: PULL always completes, whatever the producer has done: its result is the values of `n` CONVERT steps, left
first, and the frame holds: what the producer owns, `closed`, the parameters and the other ports are as before; `PULL 0` changes
only the result; and two PULLs of `a` and `b` frames give the values of one PULL of `a + b`, and leave the same state. -/
def Obligations.PullAlwaysCompletes : Prop :=
  (∀ (s : State) (n : BitVec 16),
    decode (.cmd (packCmd 0xB#4 0#3 n)) = .ok (.pull n) ∧
    ∃ t, exec (.pull n) s = .next t ∧
      t = { (convertFrames n.toNat s).2 with buffer := t.buffer } ∧
      t.buffer = (convertFrames n.toNat s).1.flatMap (fun f => [f.left, f.right]) ∧ t.buffer.length = 2 * n.toNat ∧
      t = { s with q := t.q, curPkt := t.curPkt, curIdx := t.curIdx, lastFrame := t.lastFrame, ring := t.ring, phaseNum := t.phaseNum, buffer := t.buffer } ∧
      (n = 0#16 → t = { s with buffer := [] })) ∧
  (∀ (s t u : State) (a b : BitVec 16), a.toNat + b.toNat < 65536 →
    exec (.pull a) s = .next t → exec (.pull b) t = .next u →
    exec (.pull (a + b)) s = .next { u with buffer := t.buffer ++ u.buffer })

/-- A PULL run in parts, with nobody else scheduled between them, is the PULL run whole (R206, R12). The parts are the model's
(log entry 7): they are the points where the spec lets the producer run between two accesses to the queue. -/
def Obligations.PullInPartsIsPullWhole : Prop :=
  ∀ (s : State) w rest (n : BitVec 16) ts, s.pulling = none → s.consIn = w :: rest → decode (.cmd w) = .ok (.pull n) →
    ∃ m, Sys2Proof.core.run m { s with turns := List.replicate m .consumerPart ++ ts } =
      exec (.pull n) { s with consIn := rest, turns := ts }

/-! ### The machine -/

/-- A producer turn runs the decoded command at the head of its port, on the state with PUBLISH done where it was due, the
command taken off and its samples presented; PUBLISH follows where it is due (R12, R175, R185). Where the command is refused, the
state with the command taken off stands, with the mark (R220, R229; log entry 17). -/
def Obligations.StepRunsTheProducersCommand : Prop :=
  ∀ (s : State) ts c b rest i, s.prodIn = ⟨c, b⟩ :: rest → decode c = .ok i → i.agent = .producer →
    let run := exec i { publishIfDue s with turns := ts, prodIn := rest, brrIn := b }
    let after := step { s with turns := .producer :: ts }
    (∀ u, run = .next u → after = .next (publishIfDue u)) ∧
    (∀ r, run = .refused r → after = .next (publishIfDue
      { publishIfDue s with turns := ts, prodIn := rest, refusals := s.refusals ++ [r] })) ∧
    (∀ f, run ≠ .fault f)

/-- A consumer turn with no PULL in progress runs the decoded command at the head of its port (R12). -/
def Obligations.StepRunsTheConsumersCommand : Prop :=
  ∀ (s : State) ts w rest i, s.pulling = none → s.consIn = w :: rest → decode (.cmd w) = .ok i → i.agent = .consumer →
    step { s with turns := .consumer :: ts } = exec i { s with turns := ts, consIn := rest }

/-- R61, R220, R225: an operation stops only with the refusals of R225: `VoiceRange` exactly when its voice does not exist, and
`TickAfterClose` exactly for a TICK on a closed queue; it never faults. A step never faults either, and the one refusal that ends
a run is `wrongAgent`, exactly when an agent's turn finds a command of the other agent at the head of its port, which is the
model's choice (log entry 9). -/
def Obligations.OperationsStopOnlyAsListed : Prop :=
  (∀ i (s : State),
    (∀ f, exec i s ≠ .fault f) ∧
    (∀ r, exec i s = .refused r ↔
      (r = .voiceRange ∧ ∃ v, i.voice? = some v ∧ 8 ≤ v) ∨ (r = .tickAfterClose ∧ i = .tick ∧ s.closed = true))) ∧
  (∀ (s : State),
    (∀ f, step s ≠ .fault f) ∧
    (∀ r, step s = .refused r ↔ r = .wrongAgent ∧
      ((∃ ts c b rest i, s.turns = .producer :: ts ∧ s.prodIn = ⟨c, b⟩ :: rest ∧ decode c = .ok i ∧ i.agent = .consumer) ∨
       (∃ t ts w rest i, s.turns = t :: ts ∧ (t = .consumer ∨ t = .consumerPart) ∧ s.pulling = none ∧ s.consIn = w :: rest ∧
         decode (.cmd w) = .ok i ∧ i.agent = .producer))))

/-- R220, R229: a refused command is not executed and leaves the block ready for the next command: a code word that does not
decode, and a TICK after CLOSE, is taken off its port, the run is marked, and everything else is as PUBLISH before the command
left it. The form of the mark is the model's (log entry 17). -/
def Obligations.RefusedCommandLeavesTheBlockReady : Prop :=
  (∀ (s : State) ts c b rest r, s.prodIn = ⟨c, b⟩ :: rest → decode c = .error r →
    step { s with turns := .producer :: ts } = thenPublish (.next
      { publishIfDue s with turns := ts, prodIn := rest, refusals := s.refusals ++ [refusalOf r] })) ∧
  (∀ (s : State) ts b rest, s.prodIn = ⟨.cmd 0x90000000#32, b⟩ :: rest → s.closed = true →
    step { s with turns := .producer :: ts } =
      .next { s with turns := ts, prodIn := rest, refusals := s.refusals ++ [.tickAfterClose] }) ∧
  (∀ (s : State) k ts w rest r, k = .consumer ∨ k = .consumerPart → s.pulling = none → s.consIn = w :: rest →
    decode (.cmd w) = .error r →
    step { s with turns := k :: ts } = .next { s with turns := ts, consIn := rest, refusals := s.refusals ++ [refusalOf r] })

/-- R41, R250: reset, under any legal parameters and any draw of the unspecified registers, leaves the values of the table of
R41. The contents of the model's own ports are the model's choice (log entry 2). -/
def Obligations.ResetLeavesTheTableOfR41 : Prop :=
  ∀ (p : Config.Params) (d : Draw),
    let s := State.resetWith p d
    (∀ v : Voice, s.env[v] = none ∧ s.envx v = 0#8 ∧ s.adsr[v] = d.adsr[v] ∧ s.gain[v] = d.gain[v]) ∧
    s.mvolL = d.mvolL ∧ s.mvolR = d.mvolR ∧ s.pktFill = 0 ∧ s.q = [] ∧ s.closed = false ∧ s.curPkt = none ∧
    s.curIdx = 0 ∧ s.lastFrame = Frame32.zero ∧ s.ring.length = p.ringFrames ∧ (∀ f ∈ s.ring, f = ⟨0#32, 0#32⟩) ∧
    s.phaseNum = 0 ∧ s.params = p

/-- R250: a reset turn puts every piece of the block's state at its reset value and leaves the parameters; no other step clears
`closed` or makes a present envelope absent. That the commands not executed yet and the mark of a refused run stay is the model's choice (log entry 13). -/
def Obligations.ResetIsTheOnlyWayBack : Prop :=
  (∀ (s : State) (d : Draw) ts, step { s with turns := .reset d :: ts } =
    .next { State.resetWith s.params d with prodIn := s.prodIn, consIn := s.consIn, turns := ts, refusals := s.refusals }) ∧
  (∀ (s t : State), s.resetDue = false → step s = .next t →
    (s.closed = true → t.closed = true) ∧ ∀ v : Voice, s.env[v] ≠ none → t.env[v] ≠ none)

/-- R251: what a program sees right after reset, for every draw, whatever stands in the result ports. Until a packet comes, a
PULL evaluates INTERP on an all-zero ring, which no step fills and no PULL changes: the state it leaves has the same form. -/
def Obligations.AfterResetTheBlockIsSilent : Prop :=
  ∀ (p : Config.Params) (d : Draw) (brr : Vector (BitVec 16) 8) (x : BitVec 8) (y : BitVec 17) (z : List F32), p.Legal →
    let s := { State.resetWith p d with brrIn := brr, envxOut := x, advOut := y, buffer := z }
    (∀ v : Voice, (∃ t, exec (.rdenvx v) s = .next t ∧ t.envxOut = 0#8) ∧
      (∃ t, exec (.adv v) s = .next t ∧ t.advOut = 0#17)) ∧
    (∃ t, exec .tick s = .next t ∧ t.pkt = [⟨0#16, 0#16⟩]) ∧
    s.Unfed ∧ s.phaseNum < s.params.hostRate ∧
    (∀ (u : State) (n : BitVec 16), u.params.Legal → u.Unfed → u.phaseNum < u.params.hostRate →
      exec (.pull n) u = .next { u with
        phaseNum := (u.phaseNum + n.toNat * 32000) % u.params.hostRate
        buffer := (List.range n.toNat).flatMap fun k =>
          let f := Config.interp (List.replicate u.params.ringFrames ⟨0#32, 0#32⟩)
            ((u.phaseNum + (k + 1) * 32000) % u.params.hostRate) u.params.hostRate
          [f.left, f.right] }) ∧
    (∀ (u t : State), u.params.Legal → u.Unfed → step u = .next t → t.q = [] → t.Unfed)

/-- The invariant holds after reset, under any legal parameters and any draw. -/
def Obligations.ResetMeetsTheInvariant : Prop :=
  ∀ (p : Config.Params) (d : Draw), p.Legal → (State.resetWith p d).Inv ∧ (State.resetWith p d).FloatsFinite

/-- R29, R33, R34, R36, R37, R188: every step keeps the invariant, from every state that meets it. -/
def Obligations.StepKeepsTheInvariant : Prop :=
  ∀ (s t : State), s.Inv → step s = .next t → t.Inv

/-- Every step keeps the consumer's frames finite, so no product in a run is invalid and the free NaN payload (log entry 5) is
never read (R201, R202). -/
def Obligations.StepKeepsTheFramesFinite : Prop :=
  ∀ (s t : State), s.FloatsFinite → step s = .next t → t.FloatsFinite
end

