-- ==== Sys2Proof/Laws/State.lean ====
section
/-! SUPPORT. One lemma per field per update of the state, true by unfolding, so that no proof unfolds an update. -/
namespace Sys2Proof.Machine

open Sys2Proof

variable (s : State)

/-! ### State.setAdsr -/

@[simp] theorem State.setAdsr_adsr (v : Voice) (w : BitVec 16) : (s.setAdsr v w).adsr = s.adsr.set v w := rfl
@[simp] theorem State.setAdsr_gain (v : Voice) (w : BitVec 16) : (s.setAdsr v w).gain = s.gain := rfl
@[simp] theorem State.setAdsr_mvolL (v : Voice) (w : BitVec 16) : (s.setAdsr v w).mvolL = s.mvolL := rfl
@[simp] theorem State.setAdsr_mvolR (v : Voice) (w : BitVec 16) : (s.setAdsr v w).mvolR = s.mvolR := rfl
@[simp] theorem State.setAdsr_env (v : Voice) (w : BitVec 16) : (s.setAdsr v w).env = s.env := rfl
@[simp] theorem State.setAdsr_pkt (v : Voice) (w : BitVec 16) : (s.setAdsr v w).pkt = s.pkt := rfl
@[simp] theorem State.setAdsr_q (v : Voice) (w : BitVec 16) : (s.setAdsr v w).q = s.q := rfl
@[simp] theorem State.setAdsr_closed (v : Voice) (w : BitVec 16) : (s.setAdsr v w).closed = s.closed := rfl
@[simp] theorem State.setAdsr_curPkt (v : Voice) (w : BitVec 16) : (s.setAdsr v w).curPkt = s.curPkt := rfl
@[simp] theorem State.setAdsr_curIdx (v : Voice) (w : BitVec 16) : (s.setAdsr v w).curIdx = s.curIdx := rfl
@[simp] theorem State.setAdsr_lastFrame (v : Voice) (w : BitVec 16) : (s.setAdsr v w).lastFrame = s.lastFrame := rfl
@[simp] theorem State.setAdsr_ring (v : Voice) (w : BitVec 16) : (s.setAdsr v w).ring = s.ring := rfl
@[simp] theorem State.setAdsr_phaseNum (v : Voice) (w : BitVec 16) : (s.setAdsr v w).phaseNum = s.phaseNum := rfl
@[simp] theorem State.setAdsr_params (v : Voice) (w : BitVec 16) : (s.setAdsr v w).params = s.params := rfl
@[simp] theorem State.setAdsr_brrIn (v : Voice) (w : BitVec 16) : (s.setAdsr v w).brrIn = s.brrIn := rfl
@[simp] theorem State.setAdsr_prodIn (v : Voice) (w : BitVec 16) : (s.setAdsr v w).prodIn = s.prodIn := rfl
@[simp] theorem State.setAdsr_consIn (v : Voice) (w : BitVec 16) : (s.setAdsr v w).consIn = s.consIn := rfl
@[simp] theorem State.setAdsr_turns (v : Voice) (w : BitVec 16) : (s.setAdsr v w).turns = s.turns := rfl
@[simp] theorem State.setAdsr_pulling (v : Voice) (w : BitVec 16) : (s.setAdsr v w).pulling = s.pulling := rfl
@[simp] theorem State.setAdsr_envxOut (v : Voice) (w : BitVec 16) : (s.setAdsr v w).envxOut = s.envxOut := rfl
@[simp] theorem State.setAdsr_advOut (v : Voice) (w : BitVec 16) : (s.setAdsr v w).advOut = s.advOut := rfl
@[simp] theorem State.setAdsr_buffer (v : Voice) (w : BitVec 16) : (s.setAdsr v w).buffer = s.buffer := rfl
@[simp] theorem State.setAdsr_refusals (v : Voice) (w : BitVec 16) : (s.setAdsr v w).refusals = s.refusals := rfl

/-! ### State.setGain -/

@[simp] theorem State.setGain_adsr (v : Voice) (b : BitVec 8) : (s.setGain v b).adsr = s.adsr := rfl
@[simp] theorem State.setGain_gain (v : Voice) (b : BitVec 8) : (s.setGain v b).gain = s.gain.set v b := rfl
@[simp] theorem State.setGain_mvolL (v : Voice) (b : BitVec 8) : (s.setGain v b).mvolL = s.mvolL := rfl
@[simp] theorem State.setGain_mvolR (v : Voice) (b : BitVec 8) : (s.setGain v b).mvolR = s.mvolR := rfl
@[simp] theorem State.setGain_env (v : Voice) (b : BitVec 8) : (s.setGain v b).env = s.env := rfl
@[simp] theorem State.setGain_pkt (v : Voice) (b : BitVec 8) : (s.setGain v b).pkt = s.pkt := rfl
@[simp] theorem State.setGain_q (v : Voice) (b : BitVec 8) : (s.setGain v b).q = s.q := rfl
@[simp] theorem State.setGain_closed (v : Voice) (b : BitVec 8) : (s.setGain v b).closed = s.closed := rfl
@[simp] theorem State.setGain_curPkt (v : Voice) (b : BitVec 8) : (s.setGain v b).curPkt = s.curPkt := rfl
@[simp] theorem State.setGain_curIdx (v : Voice) (b : BitVec 8) : (s.setGain v b).curIdx = s.curIdx := rfl
@[simp] theorem State.setGain_lastFrame (v : Voice) (b : BitVec 8) : (s.setGain v b).lastFrame = s.lastFrame := rfl
@[simp] theorem State.setGain_ring (v : Voice) (b : BitVec 8) : (s.setGain v b).ring = s.ring := rfl
@[simp] theorem State.setGain_phaseNum (v : Voice) (b : BitVec 8) : (s.setGain v b).phaseNum = s.phaseNum := rfl
@[simp] theorem State.setGain_params (v : Voice) (b : BitVec 8) : (s.setGain v b).params = s.params := rfl
@[simp] theorem State.setGain_brrIn (v : Voice) (b : BitVec 8) : (s.setGain v b).brrIn = s.brrIn := rfl
@[simp] theorem State.setGain_prodIn (v : Voice) (b : BitVec 8) : (s.setGain v b).prodIn = s.prodIn := rfl
@[simp] theorem State.setGain_consIn (v : Voice) (b : BitVec 8) : (s.setGain v b).consIn = s.consIn := rfl
@[simp] theorem State.setGain_turns (v : Voice) (b : BitVec 8) : (s.setGain v b).turns = s.turns := rfl
@[simp] theorem State.setGain_pulling (v : Voice) (b : BitVec 8) : (s.setGain v b).pulling = s.pulling := rfl
@[simp] theorem State.setGain_envxOut (v : Voice) (b : BitVec 8) : (s.setGain v b).envxOut = s.envxOut := rfl
@[simp] theorem State.setGain_advOut (v : Voice) (b : BitVec 8) : (s.setGain v b).advOut = s.advOut := rfl
@[simp] theorem State.setGain_buffer (v : Voice) (b : BitVec 8) : (s.setGain v b).buffer = s.buffer := rfl
@[simp] theorem State.setGain_refusals (v : Voice) (b : BitVec 8) : (s.setGain v b).refusals = s.refusals := rfl

/-! ### State.setEnv -/

@[simp] theorem State.setEnv_adsr (v : Voice) (e : Option Env) : (s.setEnv v e).adsr = s.adsr := rfl
@[simp] theorem State.setEnv_gain (v : Voice) (e : Option Env) : (s.setEnv v e).gain = s.gain := rfl
@[simp] theorem State.setEnv_mvolL (v : Voice) (e : Option Env) : (s.setEnv v e).mvolL = s.mvolL := rfl
@[simp] theorem State.setEnv_mvolR (v : Voice) (e : Option Env) : (s.setEnv v e).mvolR = s.mvolR := rfl
@[simp] theorem State.setEnv_env (v : Voice) (e : Option Env) : (s.setEnv v e).env = s.env.set v e := rfl
@[simp] theorem State.setEnv_pkt (v : Voice) (e : Option Env) : (s.setEnv v e).pkt = s.pkt := rfl
@[simp] theorem State.setEnv_q (v : Voice) (e : Option Env) : (s.setEnv v e).q = s.q := rfl
@[simp] theorem State.setEnv_closed (v : Voice) (e : Option Env) : (s.setEnv v e).closed = s.closed := rfl
@[simp] theorem State.setEnv_curPkt (v : Voice) (e : Option Env) : (s.setEnv v e).curPkt = s.curPkt := rfl
@[simp] theorem State.setEnv_curIdx (v : Voice) (e : Option Env) : (s.setEnv v e).curIdx = s.curIdx := rfl
@[simp] theorem State.setEnv_lastFrame (v : Voice) (e : Option Env) : (s.setEnv v e).lastFrame = s.lastFrame := rfl
@[simp] theorem State.setEnv_ring (v : Voice) (e : Option Env) : (s.setEnv v e).ring = s.ring := rfl
@[simp] theorem State.setEnv_phaseNum (v : Voice) (e : Option Env) : (s.setEnv v e).phaseNum = s.phaseNum := rfl
@[simp] theorem State.setEnv_params (v : Voice) (e : Option Env) : (s.setEnv v e).params = s.params := rfl
@[simp] theorem State.setEnv_brrIn (v : Voice) (e : Option Env) : (s.setEnv v e).brrIn = s.brrIn := rfl
@[simp] theorem State.setEnv_prodIn (v : Voice) (e : Option Env) : (s.setEnv v e).prodIn = s.prodIn := rfl
@[simp] theorem State.setEnv_consIn (v : Voice) (e : Option Env) : (s.setEnv v e).consIn = s.consIn := rfl
@[simp] theorem State.setEnv_turns (v : Voice) (e : Option Env) : (s.setEnv v e).turns = s.turns := rfl
@[simp] theorem State.setEnv_pulling (v : Voice) (e : Option Env) : (s.setEnv v e).pulling = s.pulling := rfl
@[simp] theorem State.setEnv_envxOut (v : Voice) (e : Option Env) : (s.setEnv v e).envxOut = s.envxOut := rfl
@[simp] theorem State.setEnv_advOut (v : Voice) (e : Option Env) : (s.setEnv v e).advOut = s.advOut := rfl
@[simp] theorem State.setEnv_buffer (v : Voice) (e : Option Env) : (s.setEnv v e).buffer = s.buffer := rfl
@[simp] theorem State.setEnv_refusals (v : Voice) (e : Option Env) : (s.setEnv v e).refusals = s.refusals := rfl

/-! ### publish -/

@[simp] theorem publish_adsr : (publish s).adsr = s.adsr := rfl
@[simp] theorem publish_gain : (publish s).gain = s.gain := rfl
@[simp] theorem publish_mvolL : (publish s).mvolL = s.mvolL := rfl
@[simp] theorem publish_mvolR : (publish s).mvolR = s.mvolR := rfl
@[simp] theorem publish_env : (publish s).env = s.env := rfl
@[simp] theorem publish_pkt : (publish s).pkt = [] := rfl
@[simp] theorem publish_q : (publish s).q = s.q ++ [s.pkt] := rfl
@[simp] theorem publish_closed : (publish s).closed = s.closed := rfl
@[simp] theorem publish_curPkt : (publish s).curPkt = s.curPkt := rfl
@[simp] theorem publish_curIdx : (publish s).curIdx = s.curIdx := rfl
@[simp] theorem publish_lastFrame : (publish s).lastFrame = s.lastFrame := rfl
@[simp] theorem publish_ring : (publish s).ring = s.ring := rfl
@[simp] theorem publish_phaseNum : (publish s).phaseNum = s.phaseNum := rfl
@[simp] theorem publish_params : (publish s).params = s.params := rfl
@[simp] theorem publish_brrIn : (publish s).brrIn = s.brrIn := rfl
@[simp] theorem publish_prodIn : (publish s).prodIn = s.prodIn := rfl
@[simp] theorem publish_consIn : (publish s).consIn = s.consIn := rfl
@[simp] theorem publish_turns : (publish s).turns = s.turns := rfl
@[simp] theorem publish_pulling : (publish s).pulling = s.pulling := rfl
@[simp] theorem publish_envxOut : (publish s).envxOut = s.envxOut := rfl
@[simp] theorem publish_advOut : (publish s).advOut = s.advOut := rfl
@[simp] theorem publish_buffer : (publish s).buffer = s.buffer := rfl
@[simp] theorem publish_refusals : (publish s).refusals = s.refusals := rfl

/-! ### closeQueue -/

@[simp] theorem closeQueue_adsr : (closeQueue s).adsr = s.adsr := rfl
@[simp] theorem closeQueue_gain : (closeQueue s).gain = s.gain := rfl
@[simp] theorem closeQueue_mvolL : (closeQueue s).mvolL = s.mvolL := rfl
@[simp] theorem closeQueue_mvolR : (closeQueue s).mvolR = s.mvolR := rfl
@[simp] theorem closeQueue_env : (closeQueue s).env = s.env := rfl
@[simp] theorem closeQueue_pkt : (closeQueue s).pkt = [] := rfl
@[simp] theorem closeQueue_q : (closeQueue s).q = s.q := rfl
@[simp] theorem closeQueue_closed : (closeQueue s).closed = true := rfl
@[simp] theorem closeQueue_curPkt : (closeQueue s).curPkt = s.curPkt := rfl
@[simp] theorem closeQueue_curIdx : (closeQueue s).curIdx = s.curIdx := rfl
@[simp] theorem closeQueue_lastFrame : (closeQueue s).lastFrame = s.lastFrame := rfl
@[simp] theorem closeQueue_ring : (closeQueue s).ring = s.ring := rfl
@[simp] theorem closeQueue_phaseNum : (closeQueue s).phaseNum = s.phaseNum := rfl
@[simp] theorem closeQueue_params : (closeQueue s).params = s.params := rfl
@[simp] theorem closeQueue_brrIn : (closeQueue s).brrIn = s.brrIn := rfl
@[simp] theorem closeQueue_prodIn : (closeQueue s).prodIn = s.prodIn := rfl
@[simp] theorem closeQueue_consIn : (closeQueue s).consIn = s.consIn := rfl
@[simp] theorem closeQueue_turns : (closeQueue s).turns = s.turns := rfl
@[simp] theorem closeQueue_pulling : (closeQueue s).pulling = s.pulling := rfl
@[simp] theorem closeQueue_envxOut : (closeQueue s).envxOut = s.envxOut := rfl
@[simp] theorem closeQueue_advOut : (closeQueue s).advOut = s.advOut := rfl
@[simp] theorem closeQueue_buffer : (closeQueue s).buffer = s.buffer := rfl
@[simp] theorem closeQueue_refusals : (closeQueue s).refusals = s.refusals := rfl

/-! ### holdTick -/

@[simp] theorem holdTick_adsr : (holdTick s).adsr = s.adsr := rfl
@[simp] theorem holdTick_gain : (holdTick s).gain = s.gain := rfl
@[simp] theorem holdTick_mvolL : (holdTick s).mvolL = s.mvolL := rfl
@[simp] theorem holdTick_mvolR : (holdTick s).mvolR = s.mvolR := rfl
@[simp] theorem holdTick_env : (holdTick s).env = s.env := rfl
@[simp] theorem holdTick_pkt : (holdTick s).pkt = s.pkt := rfl
@[simp] theorem holdTick_q : (holdTick s).q = s.q := rfl
@[simp] theorem holdTick_closed : (holdTick s).closed = s.closed := rfl
@[simp] theorem holdTick_curPkt : (holdTick s).curPkt = s.curPkt := rfl
@[simp] theorem holdTick_curIdx : (holdTick s).curIdx = s.curIdx := rfl
@[simp] theorem holdTick_lastFrame : (holdTick s).lastFrame = s.lastFrame := rfl
@[simp] theorem holdTick_ring : (holdTick s).ring = s.ring := rfl
@[simp] theorem holdTick_phaseNum : (holdTick s).phaseNum = s.phaseNum := rfl
@[simp] theorem holdTick_params : (holdTick s).params = s.params := rfl
@[simp] theorem holdTick_brrIn : (holdTick s).brrIn = s.brrIn := rfl
@[simp] theorem holdTick_prodIn : (holdTick s).prodIn = ⟨encode .tick, s.brrIn⟩ :: s.prodIn := rfl
@[simp] theorem holdTick_consIn : (holdTick s).consIn = s.consIn := rfl
@[simp] theorem holdTick_turns : (holdTick s).turns = s.turns := rfl
@[simp] theorem holdTick_pulling : (holdTick s).pulling = s.pulling := rfl
@[simp] theorem holdTick_envxOut : (holdTick s).envxOut = s.envxOut := rfl
@[simp] theorem holdTick_advOut : (holdTick s).advOut = s.advOut := rfl
@[simp] theorem holdTick_buffer : (holdTick s).buffer = s.buffer := rfl
@[simp] theorem holdTick_refusals : (holdTick s).refusals = s.refusals := rfl

/-! ### recordRefusal -/

@[simp] theorem recordRefusal_adsr (r : Refusal) : (recordRefusal r s).adsr = s.adsr := rfl
@[simp] theorem recordRefusal_gain (r : Refusal) : (recordRefusal r s).gain = s.gain := rfl
@[simp] theorem recordRefusal_mvolL (r : Refusal) : (recordRefusal r s).mvolL = s.mvolL := rfl
@[simp] theorem recordRefusal_mvolR (r : Refusal) : (recordRefusal r s).mvolR = s.mvolR := rfl
@[simp] theorem recordRefusal_env (r : Refusal) : (recordRefusal r s).env = s.env := rfl
@[simp] theorem recordRefusal_pkt (r : Refusal) : (recordRefusal r s).pkt = s.pkt := rfl
@[simp] theorem recordRefusal_q (r : Refusal) : (recordRefusal r s).q = s.q := rfl
@[simp] theorem recordRefusal_closed (r : Refusal) : (recordRefusal r s).closed = s.closed := rfl
@[simp] theorem recordRefusal_curPkt (r : Refusal) : (recordRefusal r s).curPkt = s.curPkt := rfl
@[simp] theorem recordRefusal_curIdx (r : Refusal) : (recordRefusal r s).curIdx = s.curIdx := rfl
@[simp] theorem recordRefusal_lastFrame (r : Refusal) : (recordRefusal r s).lastFrame = s.lastFrame := rfl
@[simp] theorem recordRefusal_ring (r : Refusal) : (recordRefusal r s).ring = s.ring := rfl
@[simp] theorem recordRefusal_phaseNum (r : Refusal) : (recordRefusal r s).phaseNum = s.phaseNum := rfl
@[simp] theorem recordRefusal_params (r : Refusal) : (recordRefusal r s).params = s.params := rfl
@[simp] theorem recordRefusal_brrIn (r : Refusal) : (recordRefusal r s).brrIn = s.brrIn := rfl
@[simp] theorem recordRefusal_prodIn (r : Refusal) : (recordRefusal r s).prodIn = s.prodIn := rfl
@[simp] theorem recordRefusal_consIn (r : Refusal) : (recordRefusal r s).consIn = s.consIn := rfl
@[simp] theorem recordRefusal_turns (r : Refusal) : (recordRefusal r s).turns = s.turns := rfl
@[simp] theorem recordRefusal_pulling (r : Refusal) : (recordRefusal r s).pulling = s.pulling := rfl
@[simp] theorem recordRefusal_envxOut (r : Refusal) : (recordRefusal r s).envxOut = s.envxOut := rfl
@[simp] theorem recordRefusal_advOut (r : Refusal) : (recordRefusal r s).advOut = s.advOut := rfl
@[simp] theorem recordRefusal_buffer (r : Refusal) : (recordRefusal r s).buffer = s.buffer := rfl
@[simp] theorem recordRefusal_refusals (r : Refusal) : (recordRefusal r s).refusals = s.refusals ++ [r] := rfl

/-! ### appendFrame -/

@[simp] theorem appendFrame_adsr (f : Frame16) : (appendFrame f s).adsr = s.adsr := rfl
@[simp] theorem appendFrame_gain (f : Frame16) : (appendFrame f s).gain = s.gain := rfl
@[simp] theorem appendFrame_mvolL (f : Frame16) : (appendFrame f s).mvolL = s.mvolL := rfl
@[simp] theorem appendFrame_mvolR (f : Frame16) : (appendFrame f s).mvolR = s.mvolR := rfl
@[simp] theorem appendFrame_env (f : Frame16) : (appendFrame f s).env = s.env := rfl
@[simp] theorem appendFrame_pkt (f : Frame16) : (appendFrame f s).pkt = s.pkt ++ [f] := rfl
@[simp] theorem appendFrame_q (f : Frame16) : (appendFrame f s).q = s.q := rfl
@[simp] theorem appendFrame_closed (f : Frame16) : (appendFrame f s).closed = s.closed := rfl
@[simp] theorem appendFrame_curPkt (f : Frame16) : (appendFrame f s).curPkt = s.curPkt := rfl
@[simp] theorem appendFrame_curIdx (f : Frame16) : (appendFrame f s).curIdx = s.curIdx := rfl
@[simp] theorem appendFrame_lastFrame (f : Frame16) : (appendFrame f s).lastFrame = s.lastFrame := rfl
@[simp] theorem appendFrame_ring (f : Frame16) : (appendFrame f s).ring = s.ring := rfl
@[simp] theorem appendFrame_phaseNum (f : Frame16) : (appendFrame f s).phaseNum = s.phaseNum := rfl
@[simp] theorem appendFrame_params (f : Frame16) : (appendFrame f s).params = s.params := rfl
@[simp] theorem appendFrame_brrIn (f : Frame16) : (appendFrame f s).brrIn = s.brrIn := rfl
@[simp] theorem appendFrame_prodIn (f : Frame16) : (appendFrame f s).prodIn = s.prodIn := rfl
@[simp] theorem appendFrame_consIn (f : Frame16) : (appendFrame f s).consIn = s.consIn := rfl
@[simp] theorem appendFrame_turns (f : Frame16) : (appendFrame f s).turns = s.turns := rfl
@[simp] theorem appendFrame_pulling (f : Frame16) : (appendFrame f s).pulling = s.pulling := rfl
@[simp] theorem appendFrame_envxOut (f : Frame16) : (appendFrame f s).envxOut = s.envxOut := rfl
@[simp] theorem appendFrame_advOut (f : Frame16) : (appendFrame f s).advOut = s.advOut := rfl
@[simp] theorem appendFrame_buffer (f : Frame16) : (appendFrame f s).buffer = s.buffer := rfl
@[simp] theorem appendFrame_refusals (f : Frame16) : (appendFrame f s).refusals = s.refusals := rfl

/-! ### pushRing -/

@[simp] theorem pushRing_adsr (f : Frame32) : (pushRing f s).adsr = s.adsr := rfl
@[simp] theorem pushRing_gain (f : Frame32) : (pushRing f s).gain = s.gain := rfl
@[simp] theorem pushRing_mvolL (f : Frame32) : (pushRing f s).mvolL = s.mvolL := rfl
@[simp] theorem pushRing_mvolR (f : Frame32) : (pushRing f s).mvolR = s.mvolR := rfl
@[simp] theorem pushRing_env (f : Frame32) : (pushRing f s).env = s.env := rfl
@[simp] theorem pushRing_pkt (f : Frame32) : (pushRing f s).pkt = s.pkt := rfl
@[simp] theorem pushRing_q (f : Frame32) : (pushRing f s).q = s.q := rfl
@[simp] theorem pushRing_closed (f : Frame32) : (pushRing f s).closed = s.closed := rfl
@[simp] theorem pushRing_curPkt (f : Frame32) : (pushRing f s).curPkt = s.curPkt := rfl
@[simp] theorem pushRing_curIdx (f : Frame32) : (pushRing f s).curIdx = s.curIdx := rfl
@[simp] theorem pushRing_lastFrame (f : Frame32) : (pushRing f s).lastFrame = s.lastFrame := rfl
@[simp] theorem pushRing_ring (f : Frame32) : (pushRing f s).ring = s.ring.drop 1 ++ [f] := rfl
@[simp] theorem pushRing_phaseNum (f : Frame32) : (pushRing f s).phaseNum = s.phaseNum := rfl
@[simp] theorem pushRing_params (f : Frame32) : (pushRing f s).params = s.params := rfl
@[simp] theorem pushRing_brrIn (f : Frame32) : (pushRing f s).brrIn = s.brrIn := rfl
@[simp] theorem pushRing_prodIn (f : Frame32) : (pushRing f s).prodIn = s.prodIn := rfl
@[simp] theorem pushRing_consIn (f : Frame32) : (pushRing f s).consIn = s.consIn := rfl
@[simp] theorem pushRing_turns (f : Frame32) : (pushRing f s).turns = s.turns := rfl
@[simp] theorem pushRing_pulling (f : Frame32) : (pushRing f s).pulling = s.pulling := rfl
@[simp] theorem pushRing_envxOut (f : Frame32) : (pushRing f s).envxOut = s.envxOut := rfl
@[simp] theorem pushRing_advOut (f : Frame32) : (pushRing f s).advOut = s.advOut := rfl
@[simp] theorem pushRing_buffer (f : Frame32) : (pushRing f s).buffer = s.buffer := rfl
@[simp] theorem pushRing_refusals (f : Frame32) : (pushRing f s).refusals = s.refusals := rfl

/-! ### startPull -/

@[simp] theorem startPull_adsr (n : BitVec 16) : (startPull n s).adsr = s.adsr := rfl
@[simp] theorem startPull_gain (n : BitVec 16) : (startPull n s).gain = s.gain := rfl
@[simp] theorem startPull_mvolL (n : BitVec 16) : (startPull n s).mvolL = s.mvolL := rfl
@[simp] theorem startPull_mvolR (n : BitVec 16) : (startPull n s).mvolR = s.mvolR := rfl
@[simp] theorem startPull_env (n : BitVec 16) : (startPull n s).env = s.env := rfl
@[simp] theorem startPull_pkt (n : BitVec 16) : (startPull n s).pkt = s.pkt := rfl
@[simp] theorem startPull_q (n : BitVec 16) : (startPull n s).q = s.q := rfl
@[simp] theorem startPull_closed (n : BitVec 16) : (startPull n s).closed = s.closed := rfl
@[simp] theorem startPull_curPkt (n : BitVec 16) : (startPull n s).curPkt = s.curPkt := rfl
@[simp] theorem startPull_curIdx (n : BitVec 16) : (startPull n s).curIdx = s.curIdx := rfl
@[simp] theorem startPull_lastFrame (n : BitVec 16) : (startPull n s).lastFrame = s.lastFrame := rfl
@[simp] theorem startPull_ring (n : BitVec 16) : (startPull n s).ring = s.ring := rfl
@[simp] theorem startPull_phaseNum (n : BitVec 16) : (startPull n s).phaseNum = s.phaseNum := rfl
@[simp] theorem startPull_params (n : BitVec 16) : (startPull n s).params = s.params := rfl
@[simp] theorem startPull_brrIn (n : BitVec 16) : (startPull n s).brrIn = s.brrIn := rfl
@[simp] theorem startPull_prodIn (n : BitVec 16) : (startPull n s).prodIn = s.prodIn := rfl
@[simp] theorem startPull_consIn (n : BitVec 16) : (startPull n s).consIn = s.consIn := rfl
@[simp] theorem startPull_turns (n : BitVec 16) : (startPull n s).turns = s.turns := rfl
@[simp] theorem startPull_pulling (n : BitVec 16) : (startPull n s).pulling = some ⟨n.toNat, .idle, []⟩ := rfl
@[simp] theorem startPull_envxOut (n : BitVec 16) : (startPull n s).envxOut = s.envxOut := rfl
@[simp] theorem startPull_advOut (n : BitVec 16) : (startPull n s).advOut = s.advOut := rfl
@[simp] theorem startPull_buffer (n : BitVec 16) : (startPull n s).buffer = s.buffer := rfl
@[simp] theorem startPull_refusals (n : BitVec 16) : (startPull n s).refusals = s.refusals := rfl

end Sys2Proof.Machine
end

