-- ==== Sys2Proof/Laws/Consumer.lean ====
section
/-! SUPPORT. What the queue and resampler operations can do, said once each: PUBLISH, TryReceive, SRC_NEXT, CONVERT, PULL and
the parts of a PULL. Provers cite these instead of unfolding. -/
namespace Sys2Proof.Machine

open Sys2Proof

/-! ### PUBLISH and TryReceive -/

theorem publishEnabled_iff (s : State) :
    s.publishEnabled = true ↔
      s.pkt.length = s.params.packetFrames ∧ s.q.length < s.params.queueCapacity ∧ s.closed = false := by
  simp [State.publishEnabled, State.packetPending, State.pktFill, and_assoc]

/-- PUBLISH where it is due, or nothing. -/
theorem publishIfDue_cases (s : State) :
    (s.publishEnabled = true ∧ publishIfDue s = publish s) ∨ (s.publishEnabled = false ∧ publishIfDue s = s) := by
  unfold publishIfDue
  cases s.publishEnabled <;> simp

theorem tryReceive_cons {s : State} {p : Packet} {rest : List Packet} (h : s.q = p :: rest) :
    tryReceive s = (some p, { s with q := rest }) := by
  unfold tryReceive; rw [h]

theorem tryReceive_nil {s : State} (h : s.q = []) : tryReceive s = (none, s) := by
  unfold tryReceive; rw [h]

/-! ### SRC_NEXT -/

/-- The state after frame `i` of packet `p` has been emitted. -/
def emitted (p : Packet) (i : Nat) (s : State) : State :=
  { s with curPkt := some p, curIdx := i + 1, lastFrame := toF32 (packetFrame p i) }

theorem hasUnread_some {s : State} (h : s.hasUnread = true) : ∃ p, s.curPkt = some p := by
  unfold State.hasUnread at h
  exact Option.isSome_iff_exists.mp (by simp_all)

theorem srcTry_unread {s : State} {p : Packet} (hc : s.curPkt = some p) (hu : s.hasUnread = true) :
    srcTry s = (some (toF32 (packetFrame p s.curIdx)), emitted p s.curIdx s) := by
  unfold srcTry; rw [hu, hc]; rfl

theorem srcTry_read {s : State} (hu : s.hasUnread = false) :
    srcTry s = match tryReceive s with
      | (some p, s') => (some (toF32 (packetFrame p 0)), emitted p 0 s')
      | (none, s') => (none, s') := by
  unfold srcTry; rw [hu]; cases s.curPkt <;> rfl

theorem srcTry_receive {s : State} {p : Packet} {rest : List Packet} (hu : s.hasUnread = false) (hq : s.q = p :: rest) :
    srcTry s = (some (toF32 (packetFrame p 0)), emitted p 0 { s with q := rest }) := by
  rw [srcTry_read hu, tryReceive_cons hq]

theorem srcTry_empty {s : State} (hu : s.hasUnread = false) (hq : s.q = []) : srcTry s = (none, s) := by
  rw [srcTry_read hu, tryReceive_nil hq]

/-- The three things the first half of SRC_NEXT can do (R200 a, b, and an empty queue). -/
theorem srcTry_cases (s : State) :
    (∃ p, s.curPkt = some p ∧ s.hasUnread = true ∧
      srcTry s = (some (toF32 (packetFrame p s.curIdx)), emitted p s.curIdx s)) ∨
    (∃ p rest, s.hasUnread = false ∧ s.q = p :: rest ∧
      srcTry s = (some (toF32 (packetFrame p 0)), emitted p 0 { s with q := rest })) ∨
    (s.hasUnread = false ∧ s.q = [] ∧ srcTry s = (none, s)) := by
  cases hu : s.hasUnread
  · cases hq : s.q with
    | nil => exact .inr (.inr ⟨rfl, rfl, srcTry_empty hu hq⟩)
    | cons p rest => exact .inr (.inl ⟨p, rest, rfl, rfl, srcTry_receive hu hq⟩)
  · obtain ⟨p, hc⟩ := hasUnread_some hu
    exact .inl ⟨p, hc, rfl, srcTry_unread hc hu⟩

theorem underrun_closed {s : State} (h : s.closed = true) : underrun s = (Frame32.zero, s) := by
  unfold underrun; rw [h]; rfl

theorem underrun_damp {s : State} (h : s.closed = false) (hp : s.curPkt ≠ none) :
    underrun s = (damp s.lastFrame, { s with lastFrame := damp s.lastFrame }) := by
  obtain ⟨p, hp⟩ := Option.ne_none_iff_exists'.mp hp
  unfold underrun; rw [h, hp]; rfl

theorem underrun_none {s : State} (h : s.closed = false) (hp : s.curPkt = none) : underrun s = (Frame32.zero, s) := by
  unfold underrun; rw [h, hp]; rfl

/-- The three things the second half can do (R200 e, c, d). -/
theorem underrun_cases (s : State) :
    (s.closed = true ∧ underrun s = (Frame32.zero, s)) ∨
    (s.closed = false ∧ s.curPkt ≠ none ∧
      underrun s = (damp s.lastFrame, { s with lastFrame := damp s.lastFrame })) ∨
    (s.closed = false ∧ s.curPkt = none ∧ underrun s = (Frame32.zero, s)) := by
  rcases Bool.eq_false_or_eq_true s.closed with hc | hc
  · exact .inl ⟨hc, underrun_closed hc⟩
  · by_cases hp : s.curPkt = none
    · exact .inr (.inr ⟨hc, hp, underrun_none hc hp⟩)
    · exact .inr (.inl ⟨hc, hp, underrun_damp hc hp⟩)

theorem srcNext_unread {s : State} {p : Packet} (hc : s.curPkt = some p) (hu : s.hasUnread = true) :
    srcNext s = (toF32 (packetFrame p s.curIdx), emitted p s.curIdx s) := by
  unfold srcNext; rw [srcTry_unread hc hu]

theorem srcNext_receive {s : State} {p : Packet} {rest : List Packet} (hu : s.hasUnread = false) (hq : s.q = p :: rest) :
    srcNext s = (toF32 (packetFrame p 0), emitted p 0 { s with q := rest }) := by
  unfold srcNext; rw [srcTry_receive hu hq]

theorem srcNext_empty {s : State} (hu : s.hasUnread = false) (hq : s.q = []) : srcNext s = underrun s := by
  unfold srcNext; rw [srcTry_empty hu hq]

/-- The three things SRC_NEXT can do: an unread frame, a new packet, an underrun (R200). -/
theorem srcNext_cases (s : State) :
    (∃ p, s.curPkt = some p ∧ s.hasUnread = true ∧
      srcNext s = (toF32 (packetFrame p s.curIdx), emitted p s.curIdx s)) ∨
    (∃ p rest, s.hasUnread = false ∧ s.q = p :: rest ∧
      srcNext s = (toF32 (packetFrame p 0), emitted p 0 { s with q := rest })) ∨
    (s.hasUnread = false ∧ s.q = [] ∧ srcNext s = underrun s) := by
  cases hu : s.hasUnread
  · cases hq : s.q with
    | nil => exact .inr (.inr ⟨rfl, rfl, srcNext_empty hu hq⟩)
    | cons p rest => exact .inr (.inl ⟨p, rest, rfl, rfl, srcNext_receive hu hq⟩)
  · obtain ⟨p, hc⟩ := hasUnread_some hu
    exact .inl ⟨p, hc, rfl, srcNext_unread hc hu⟩

/-- A state whose source-signal part and queue are taken from another: all that SRC_NEXT, CONVERT and PULL can change, besides
the result port and a PULL's own progress. -/
def State.withSource (s t : State) : State :=
  { s with q := t.q, curPkt := t.curPkt, curIdx := t.curIdx, lastFrame := t.lastFrame, ring := t.ring, phaseNum := t.phaseNum }

@[simp] theorem State.withSource_self (s : State) : s.withSource s = s := rfl

theorem State.withSource_trans {s t u : State} (h : t = s.withSource t) (h' : u = t.withSource u) : u = s.withSource u := by
  rw [h']; conv_lhs => rw [h]
  rfl

theorem underrun_frame (s : State) : ∃ f, (underrun s).2 = { s with lastFrame := f } := by
  rcases underrun_cases s with ⟨_, h⟩ | ⟨_, _, h⟩ | ⟨_, _, h⟩ <;> rw [h] <;> exact ⟨_, rfl⟩

/-- SRC_NEXT's frame, and the queue loses at most its head. -/
theorem srcNext_frame (s : State) :
    (srcNext s).2 = s.withSource (srcNext s).2 ∧ (srcNext s).2.ring = s.ring ∧ (srcNext s).2.phaseNum = s.phaseNum ∧
      ∃ k, (srcNext s).2.q = s.q.drop k ∧ k ≤ s.q.length := by
  rcases srcNext_cases s with ⟨p, _, _, h⟩ | ⟨p, rest, _, hq, h⟩ | ⟨_, _, h⟩ <;> rw [h]
  · exact ⟨rfl, rfl, rfl, 0, rfl, Nat.zero_le _⟩
  · exact ⟨rfl, rfl, rfl, 1, by rw [hq]; rfl, by simp [hq]⟩
  · obtain ⟨f, hf⟩ := underrun_frame s
    rw [hf]
    exact ⟨rfl, rfl, rfl, 0, rfl, Nat.zero_le _⟩

/-- The second half neither reads nor writes the ring. -/
theorem underrun_ring (s : State) (r : List Frame32) :
    underrun { s with ring := r } = ((underrun s).1, { (underrun s).2 with ring := r }) := by
  rcases underrun_cases s with ⟨hc, h⟩ | ⟨hc, hp, h⟩ | ⟨hc, hp, h⟩ <;> rw [h]
  · exact underrun_closed (s := { s with ring := r }) hc
  · exact underrun_damp (s := { s with ring := r }) hc hp
  · exact underrun_none (s := { s with ring := r }) hc hp

/-- SRC_NEXT neither reads nor writes the ring. -/
theorem srcNext_ring (s : State) (r : List Frame32) :
    srcNext { s with ring := r } = ((srcNext s).1, { (srcNext s).2 with ring := r }) := by
  rcases srcNext_cases s with ⟨p, hc, hu, h⟩ | ⟨p, rest, hu, hq, h⟩ | ⟨hu, hq, h⟩ <;> rw [h]
  · exact srcNext_unread (s := { s with ring := r }) hc hu
  · exact srcNext_receive (s := { s with ring := r }) hu hq
  · rw [srcNext_empty (s := { s with ring := r }) hu hq, underrun_ring]

/-! ### CONVERT and PULL -/

/-- One turn of CONVERT's loop (R203). -/
def srcPush (s : State) : State := pushRing (srcNext s).1 (srcNext s).2

theorem srcTimes_succ (n : Nat) (s : State) : srcTimes (n + 1) s = srcTimes n (srcPush s) := rfl

theorem convert_snd (s : State) : (convert s).2 = srcTimes (advancePhase s).1 (advancePhase s).2 := rfl

theorem pullFrames_succ (n : Nat) (s : State) :
    pullFrames (n + 1) s =
      ((convert s).1.left :: (convert s).1.right :: (pullFrames n (convert s).2).1, (pullFrames n (convert s).2).2) := rfl

/-- A property that the phase advance and one turn of CONVERT's loop keep is kept by the loop. -/
theorem srcTimes_keeps {P : State → Prop} (hsrc : ∀ s, P s → P (srcPush s)) : ∀ n s, P s → P (srcTimes n s)
  | 0, _, h => h
  | n + 1, s, h => srcTimes_keeps hsrc n (srcPush s) (hsrc s h)

/-- ... and by CONVERT. -/
theorem convert_keeps {P : State → Prop} (hph : ∀ s, P s → P (advancePhase s).2) (hsrc : ∀ s, P s → P (srcPush s))
    (s : State) (h : P s) : P (convert s).2 :=
  srcTimes_keeps hsrc _ _ (hph s h)

/-- ... and by any number of CONVERT steps. -/
theorem pullFrames_keeps {P : State → Prop} (hph : ∀ s, P s → P (advancePhase s).2) (hsrc : ∀ s, P s → P (srcPush s)) :
    ∀ n s, P s → P (pullFrames n s).2
  | 0, _, h => h
  | n + 1, s, h => pullFrames_keeps hph hsrc n (convert s).2 (convert_keeps hph hsrc s h)

/-- PULL's values come in whole frames (R98). -/
theorem pullFrames_length : ∀ n s, (pullFrames n s).1.length = 2 * n
  | 0, _ => rfl
  | n + 1, s => by simp only [pullFrames_succ, List.length_cons, pullFrames_length n]; omega

/-- PULL in two pieces (R206). -/
theorem pullFrames_add : ∀ a b s,
    pullFrames (a + b) s =
      ((pullFrames a s).1 ++ (pullFrames b (pullFrames a s).2).1, (pullFrames b (pullFrames a s).2).2)
  | 0, b, s => by simp [pullFrames]
  | a + 1, b, s => by
    rw [Nat.add_right_comm, pullFrames_succ, pullFrames_add a b, pullFrames_succ]
    rfl

/-- The frame of the two primitive updates. -/
theorem advancePhase_frame (s : State) : (advancePhase s).2 = s.withSource (advancePhase s).2 := rfl

theorem srcPush_frame (s : State) : srcPush s = s.withSource (srcPush s) := by
  unfold srcPush pushRing
  conv_lhs => rw [(srcNext_frame s).1]
  rfl

/-- PULL's frame (R39, R206). -/
theorem pullFrames_frame (n : Nat) (s : State) : (pullFrames n s).2 = s.withSource (pullFrames n s).2 :=
  pullFrames_keeps (P := fun t => t = s.withSource t)
    (fun t h => State.withSource_trans h (advancePhase_frame t)) (fun t h => State.withSource_trans h (srcPush_frame t))
    n s rfl

/-- The queue loses packets at its head only (R70). -/
theorem pullFrames_queue (n : Nat) (s : State) : ∃ k, (pullFrames n s).2.q = s.q.drop k ∧ k ≤ s.q.length :=
  pullFrames_keeps (P := fun t => ∃ k, t.q = s.q.drop k ∧ k ≤ s.q.length)
    (fun _ h => h)
    (fun t ⟨k, hk, hkl⟩ => by
      obtain ⟨_, _, _, j, hj, hjl⟩ := srcNext_frame t
      refine ⟨k + j, ?_, ?_⟩
      · show (srcNext t).2.q = _
        rw [hj, hk, List.drop_drop]
      · have := congrArg List.length hk
        rw [List.length_drop] at this
        omega)
    n s ⟨0, rfl, Nat.zero_le _⟩

end Sys2Proof.Machine
end

