-- ==== Sys2Proof/Laws/Encoding.lean ====
section
/-! SUPPORT. The encoding as arithmetic: each packed word and each field as a number, and each mask of the opcode table as the
fields it covers, so that a statement about words becomes one about numbers. -/
namespace Sys2Proof

/-! ### Words and fields as numbers -/

theorem append_toNat_eq {n m : Nat} (x : BitVec n) (y : BitVec m) : (x ++ y).toNat = x.toNat * 2 ^ m + y.toNat := by
  rw [BitVec.toNat_append, ← Nat.shiftLeft_add_eq_or_of_lt y.isLt, Nat.shiftLeft_eq]

theorem extract_toNat_eq {n : Nat} (w : BitVec n) (s l : Nat) : (w.extractLsb' s l).toNat = w.toNat / 2 ^ s % 2 ^ l := by
  rw [BitVec.extractLsb'_toNat, Nat.shiftRight_eq_div_pow]

theorem opField_toNat (w : BitVec 32) : (opField w).toNat = w.toNat / 2 ^ 28 % 2 ^ 4 := extract_toNat_eq _ _ _
theorem z1Field_toNat (w : BitVec 32) : (z1Field w).toNat = w.toNat / 2 ^ 27 % 2 ^ 1 := extract_toNat_eq _ _ _
theorem voiceField_toNat (w : BitVec 32) : (voiceField w).toNat = w.toNat / 2 ^ 24 % 2 ^ 3 := extract_toNat_eq _ _ _
theorem z2Field_toNat (w : BitVec 32) : (z2Field w).toNat = w.toNat / 2 ^ 16 % 2 ^ 8 := extract_toNat_eq _ _ _
theorem dataField_toNat (w : BitVec 32) : (dataField w).toNat = w.toNat / 2 ^ 0 % 2 ^ 16 := extract_toNat_eq _ _ _
theorem byteField_toNat (w : BitVec 32) : (byteField w).toNat = w.toNat / 2 ^ 0 % 2 ^ 8 := extract_toNat_eq _ _ _
theorem highByteField_toNat (w : BitVec 32) : (highByteField w).toNat = w.toNat / 2 ^ 8 % 2 ^ 8 := extract_toNat_eq _ _ _

theorem slField_toNat (w : BitVec 16) : (slField w).toNat = w.toNat / 2 ^ 13 % 2 ^ 3 := extract_toNat_eq _ _ _
theorem srField_toNat (w : BitVec 16) : (srField w).toNat = w.toNat / 2 ^ 8 % 2 ^ 5 := extract_toNat_eq _ _ _
theorem enField_toNat (w : BitVec 16) : (enField w).toNat = w.toNat / 2 ^ 7 % 2 ^ 1 := extract_toNat_eq _ _ _
theorem dField_toNat (w : BitVec 16) : (dField w).toNat = w.toNat / 2 ^ 4 % 2 ^ 3 := extract_toNat_eq _ _ _
theorem aField_toNat (w : BitVec 16) : (aField w).toNat = w.toNat / 2 ^ 0 % 2 ^ 4 := extract_toNat_eq _ _ _

theorem packCmd_toNat (op : BitVec 4) (v : BitVec 3) (d : BitVec 16) :
    (packCmd op v d).toNat = op.toNat * 2 ^ 28 + v.toNat * 2 ^ 24 + d.toNat := by
  have h : (packCmd op v d).toNat = (((op ++ 0#1) ++ v) ++ 0#8 ++ d).toNat := rfl
  rw [h, append_toNat_eq, append_toNat_eq, append_toNat_eq, append_toNat_eq]
  simp
  omega

theorem encodeAdsr_toNat (sl : BitVec 3) (sr : BitVec 5) (en : BitVec 1) (d : BitVec 3) (a : BitVec 4) :
    (encodeAdsr sl sr en d a).toNat =
      sl.toNat * 2 ^ 13 + sr.toNat * 2 ^ 8 + en.toNat * 2 ^ 7 + d.toNat * 2 ^ 4 + a.toNat := by
  have h : (encodeAdsr sl sr en d a).toNat = (sl ++ sr ++ en ++ d ++ a).toNat := rfl
  rw [h, append_toNat_eq, append_toNat_eq, append_toNat_eq, append_toNat_eq]
  omega

theorem encodeGainDirect_toNat (l : BitVec 7) : (encodeGainDirect l).toNat = l.toNat := by
  have h : (encodeGainDirect l).toNat = (0#1 ++ l).toNat := rfl
  rw [h, append_toNat_eq]
  simp

theorem encodeGainCurve_toNat (m : BitVec 2) (p : BitVec 5) :
    (encodeGainCurve m p).toNat = 2 ^ 7 + m.toNat * 2 ^ 5 + p.toNat := by
  have h : (encodeGainCurve m p).toNat = (1#1 ++ m ++ p).toNat := rfl
  rw [h, append_toNat_eq, append_toNat_eq]
  simp
  omega

/-- A byte operand in the data field (R80). -/
theorem byteData_toNat (imm : BitVec 8) : BitVec.toNat (w := 16) (0#8 ++ imm) = imm.toNat := by
  have h : BitVec.toNat (w := 16) (0#8 ++ imm) = (0#8 ++ imm).toNat := rfl
  rw [h, append_toNat_eq]
  simp

/-- The two decreasing modes are the low bit alone, the two increasing ones 2 above it (R89). -/
theorem modeLow_toNat (m : BitVec 1) : BitVec.toNat (w := 2) (0#1 ++ m) = m.toNat := by revert m; decide
theorem modeHigh_toNat (m : BitVec 1) : BitVec.toNat (w := 2) (1#1 ++ m) = 2 + m.toNat := by revert m; decide

/-! ### Masks as fields -/

/-- A mask of one run of ones keeps one field in place. -/
theorem and_field (w a b : Nat) : w &&& (2 ^ b - 1) * 2 ^ a = w / 2 ^ a % 2 ^ b * 2 ^ a := by
  apply Nat.eq_of_testBit_eq
  intro i
  simp only [Nat.testBit_and, Nat.testBit_mul_two_pow, Nat.testBit_two_pow_sub_one, Nat.testBit_mod_two_pow,
    Nat.testBit_div_two_pow]
  by_cases h : a ≤ i
  · simp [h, Bool.and_comm]
  · simp [h]

/-- A mask of two runs of ones keeps two fields in place. -/
theorem and_fields (w a b c d : Nat) (h : c + d ≤ a) :
    w &&& ((2 ^ b - 1) * 2 ^ a ||| (2 ^ d - 1) * 2 ^ c) = w / 2 ^ a % 2 ^ b * 2 ^ a + w / 2 ^ c % 2 ^ d * 2 ^ c := by
  rw [Nat.and_or_distrib_left, and_field, and_field, ← Nat.shiftLeft_eq (w / 2 ^ a % 2 ^ b) a]
  refine (Nat.shiftLeft_add_eq_or_of_lt ?_ _).symm
  calc w / 2 ^ c % 2 ^ d * 2 ^ c < 2 ^ d * 2 ^ c := by
        exact Nat.mul_lt_mul_of_pos_right (Nat.mod_lt _ (by positivity)) (by positivity)
    _ = 2 ^ (c + d) := by rw [← Nat.pow_add, Nat.add_comm]
    _ ≤ 2 ^ a := Nat.pow_le_pow_right (by omega) h

theorem and_F8FF0000 (w : Nat) : w &&& 0xF8FF0000 = w / 2 ^ 27 % 2 ^ 5 * 2 ^ 27 + w / 2 ^ 16 % 2 ^ 8 * 2 ^ 16 :=
  and_fields w 27 5 16 8 (by omega)
theorem and_F8FFFF00 (w : Nat) : w &&& 0xF8FFFF00 = w / 2 ^ 27 % 2 ^ 5 * 2 ^ 27 + w / 2 ^ 8 % 2 ^ 16 * 2 ^ 8 :=
  and_fields w 27 5 8 16 (by omega)
theorem and_F8FFFFFF (w : Nat) : w &&& 0xF8FFFFFF = w / 2 ^ 27 % 2 ^ 5 * 2 ^ 27 + w / 2 ^ 0 % 2 ^ 24 * 2 ^ 0 :=
  and_fields w 27 5 0 24 (by omega)
theorem and_FFFFFF00 (w : Nat) : w &&& 0xFFFFFF00 = w / 2 ^ 8 % 2 ^ 24 * 2 ^ 8 := and_field w 8 24
theorem and_FFFFFFFF (w : Nat) : w &&& 0xFFFFFFFF = w / 2 ^ 0 % 2 ^ 32 * 2 ^ 0 := and_field w 0 32
theorem and_FFFF0000 (w : Nat) : w &&& 0xFFFF0000 = w / 2 ^ 16 % 2 ^ 16 * 2 ^ 16 := and_field w 16 16
theorem and_8F (w : Nat) : w &&& 0x008F = w / 2 ^ 7 % 2 ^ 1 * 2 ^ 7 + w / 2 ^ 0 % 2 ^ 4 * 2 ^ 0 :=
  and_fields w 7 1 0 4 (by omega)
theorem and_80 (w : Nat) : w &&& 0x80 = w / 2 ^ 7 % 2 ^ 1 * 2 ^ 7 := and_field w 7 1
theorem and_DF (w : Nat) : w &&& 0xDF = w / 2 ^ 6 % 2 ^ 2 * 2 ^ 6 + w / 2 ^ 0 % 2 ^ 5 * 2 ^ 0 :=
  and_fields w 6 2 0 5 (by omega)
theorem and_E0 (w : Nat) : w &&& 0xE0 = w / 2 ^ 5 % 2 ^ 3 * 2 ^ 5 := and_field w 5 3

end Sys2Proof
end

