-- ==== Sys2Proof/Laws/Voices.lean ====
section
/-! SUPPORT. What the voice-level shared operations can do, said once each: the voice check, the register decoder's tables,
envelope construction, one call of ADV, one TICK. Provers cite these instead of unfolding. -/
namespace Sys2Proof.Machine

open Sys2Proof

/-! ### The voice check -/

@[simp] theorem onVoice_voice (v : Voice) (run : Voice → Result) : onVoice v run = run v := by
  simp [onVoice, v.isLt]

theorem onVoice_of_ge {v : Nat} (h : 8 ≤ v) (run : Voice → Result) : onVoice v run = .refused .voiceRange := by
  simp [onVoice, Nat.not_lt.mpr h]

/-- If an operation on a voice answers a next state, the voice exists and its own part answered it. -/
theorem onVoice_next {v : Nat} {run : Voice → Result} {t : State} (h : onVoice v run = .next t) :
    ∃ u : Voice, u.val = v ∧ run u = .next t := by
  unfold onVoice at h
  split at h
  · exact ⟨⟨v, ‹_›⟩, rfl, h⟩
  · cases h

/-! ### Slots -/

/-- Writing a slot's own contents back changes nothing. -/
@[simp] theorem State.setEnv_self (s : State) (v : Voice) : s.setEnv v s.env[v] = s := by
  simp [State.setEnv]

@[simp] theorem State.setEnv_setEnv (s : State) (v : Voice) (a b : Option Env) :
    (s.setEnv v a).setEnv v b = s.setEnv v b := by
  simp [State.setEnv]

/-- Reading a slot after a slot is written. -/
theorem State.setEnv_get (s : State) (v u : Voice) (e : Option Env) :
    (s.setEnv v e).env[u] = if u = v then e else s.env[u] := by
  simp only [State.setEnv, Fin.getElem_fin, Vector.getElem_set, Fin.val_inj, eq_comm]

@[simp] theorem State.setEnv_get_same (s : State) (v : Voice) (e : Option Env) : (s.setEnv v e).env[v] = e := by
  rw [State.setEnv_get, if_pos rfl]

theorem State.setEnv_get_other (s : State) {v u : Voice} (h : u ≠ v) (e : Option Env) :
    (s.setEnv v e).env[u] = s.env[u] := by
  rw [State.setEnv_get, if_neg h]

/-! ### Tables -/

theorem decayStep_ok : ∀ d, StepOk (decayStep d) := by decide
theorem attackStep_ok : ∀ a n, attackStep a = some n → StepOk n := by
  have h : ∀ a, ∀ n ∈ attackStep a, StepOk n := by decide
  exact fun a n hn => h a n hn
theorem stepS_ok : ∀ i n, stepS i = some n → StepOk n := by
  have h : ∀ i, ∀ n ∈ stepS i, StepOk n := by decide
  exact fun a n hn => h a n hn
theorem sustainLevel_le : ∀ i, sustainLevel i ≤ 2047 := by decide

/-- `none` stands at index 15 of the attack table and nowhere else (R84). -/
theorem attackStep_none_iff : ∀ a, attackStep a = none ↔ a = 15#4 := by decide
/-- `none` stands at index 0 of Table S and nowhere else (R87). -/
theorem stepS_none_iff : ∀ i, stepS i = none ↔ i = 0#5 := by decide

theorem CfgInv.decayStep_ok {c : EnvCfg} (h : CfgInv c) : StepOk c.decayStep := by
  obtain ⟨sl, sr, d, rfl⟩ := h; exact Machine.decayStep_ok d
theorem CfgInv.sustainLevel_le {c : EnvCfg} (h : CfgInv c) : c.sustainLevel ≤ 2047 := by
  obtain ⟨sl, sr, d, rfl⟩ := h; exact Machine.sustainLevel_le sl
theorem CfgInv.srStep_ok {c : EnvCfg} (h : CfgInv c) {m : Nat} (hm : c.srStep = some m) : StepOk m := by
  obtain ⟨sl, sr, d, rfl⟩ := h; exact stepS_ok sr m hm

/-! ### Construction -/

/-- A first curve has an initial gain, and no other has (R113, R221). -/
theorem initialGain_isSome (c : Curve) : (initialGain c).isSome = c.isFirst := by cases c <;> rfl

theorem adsrCurve_first (a : Option Nat) (d : Nat) : (adsrCurve a d).isFirst = true := by cases a <;> rfl

theorem gainCurve_first (g : GainDecoded) : (gainCurve g).isFirst = true := by
  cases g with
  | direct l => rfl
  | curve m st =>
    cases st <;> simp only [gainCurve] <;> split <;> rfl

/-- The one thing an installation can do: put the fresh envelope in the slot; it faults exactly on the curves R221 names. -/
theorem installEnv_eq (v : Voice) (c : Curve) (cfg : EnvCfg) (s : State) :
    installEnv v c cfg s =
      match initialGain c with
      | some g => .next (s.setEnv v (some ⟨c, g, 0, cfg⟩))
      | none => .fault (.constructError c) := by
  unfold installEnv construct
  cases initialGain c <;> rfl

theorem installEnv_first {c : Curve} (h : c.isFirst = true) (v : Voice) (cfg : EnvCfg) (s : State) :
    ∃ g, initialGain c = some g ∧ installEnv v c cfg s = .next (s.setEnv v (some ⟨c, g, 0, cfg⟩)) := by
  rw [← initialGain_isSome, Option.isSome_iff_exists] at h
  obtain ⟨g, hg⟩ := h
  exact ⟨g, hg, by rw [installEnv_eq, hg]⟩

/-! ### ADV -/

/-- `countTick` keeps the curve and the snapshot. -/
@[simp] theorem countTick_curve (n : Nat) (f : Int → Int) (e : Env) : (countTick n f e).curve = e.curve := by
  unfold countTick; split <;> rfl
@[simp] theorem countTick_cfg (n : Nat) (f : Int → Int) (e : Env) : (countTick n f e).cfg = e.cfg := by
  unfold countTick; split <;> rfl

/-- ADV keeps the snapshot. -/
theorem advEnv_cfg (e : Env) : (advEnv e).2.cfg = e.cfg := by
  unfold advEnv
  split <;> (try split) <;>
    simp only [checkAttack, checkDecay, checkFloor, checkCeiling, enterStatic] <;> (repeat' split) <;> simp_all

/-- ADV follows the transition graph (R145). -/
theorem advEnv_successor (e : Env) : AdvSuccessor e.cfg (countedGain e) e.curve (advEnv e).2.curve := by
  obtain ⟨c, g, k, cfg⟩ := e
  cases c <;> simp only [advEnv]
  case static => exact .stay _
  case fade => split <;> exact .stay _
  all_goals
    simp only [checkAttack, checkDecay, checkFloor, checkCeiling, enterStatic]
    split
  case decay.isTrue hg =>
    simp only [countTick_cfg] at hg ⊢
    split
    · exact .decayToSustain _ _ hg ‹_›
    · exact .decayToHold _ hg ‹_›
  case attack.isTrue hg => simp only [countTick_cfg]; exact .attackDone _ hg
  case sustain.isTrue hg => exact .sustainDone _ hg
  case linIncr.isTrue hg => exact .linIncrDone _ hg
  case bentIncr.isTrue hg => exact .bentIncrDone _ hg
  case linDecr.isTrue hg => exact .linDecrDone _ hg
  case expDecr.isTrue hg => exact .expDecrDone _ hg
  all_goals simpa using AdvSuccessor.stay _

/-- ADV on a slot, as a map over it. -/
theorem advSlot_snd (o : Option Env) : (advSlot o).2 = o.map fun e => (advEnv e).2 := by cases o <;> rfl

/-- A muted slot answers `Exhausted` and stays (R30, R150, R222). -/
theorem advSlot_muted {o : Option Env} (h : mutedEnv o = true) : advSlot o = (.exhausted, o) := by
  cases o with
  | none => rfl
  | some e =>
    simp [mutedEnv] at h
    simp [advSlot, advEnv, h.1, h.2]

/-! ### TICK -/

/-- The slots after the voices of a list have been advanced. -/
def advancedEnv (vs : List Voice) (env : Vector (Option Env) 8) : Vector (Option Env) 8 :=
  vs.foldl (fun env (v : Voice) => env.set v (advSlot env[v]).2) env

/-- A channel's sum after the voices of a list, from the slots before any of them is advanced. -/
def mixSum (s : State) (m : BitVec 8) (vs : List Voice) (acc : Int) : Int :=
  vs.foldl (fun acc (v : Voice) => sat16 (acc + voiceTerm s.params (advSlot s.env[v]).1.gainOrZero s.brrIn[v] m)) acc

theorem mixSum_congr {s s' : State} (hp : s'.params = s.params) (hb : s'.brrIn = s.brrIn) (m : BitVec 8) :
    ∀ (vs : List Voice) (acc : Int), (∀ v ∈ vs, s'.env[v] = s.env[v]) → mixSum s' m vs acc = mixSum s m vs acc := by
  intro vs
  induction vs with
  | nil => intro acc _; rfl
  | cons v vs ih =>
    intro acc h
    have hacc : sat16 (acc + voiceTerm s'.params (advSlot s'.env[v]).1.gainOrZero s'.brrIn[v] m) =
        sat16 (acc + voiceTerm s.params (advSlot s.env[v]).1.gainOrZero s.brrIn[v] m) := by
      rw [h v (by simp), hp, hb]
    exact (congrArg (mixSum s' m vs) hacc).trans (ih _ fun u hu => h u (by simp [hu]))

/-- TICK's loop advances the slots and sums the two channels independently (R170, R176). -/
theorem mixVoices_eq : ∀ (vs : List Voice), vs.Nodup → ∀ (s : State) (l r : Int),
    vs.foldl mixVoice (s, l, r) =
      ({ s with env := advancedEnv vs s.env }, mixSum s s.mvolL vs l, mixSum s s.mvolR vs r) := by
  intro vs
  induction vs with
  | nil => intro _ s l r; rfl
  | cons v vs ih =>
    intro hnd s l r
    obtain ⟨hv, hvs⟩ := List.nodup_cons.mp hnd
    have hother : ∀ u ∈ vs, (advVoice v s).2.env[u] = s.env[u] := fun u hu =>
      State.setEnv_get_other s (fun h : u = v => hv (h ▸ hu)) _
    simp only [List.foldl_cons, mixVoice]
    rw [ih hvs, mixSum_congr (s := s) (s' := (advVoice v s).2) rfl rfl _ vs _ hother,
      mixSum_congr (s := s) (s' := (advVoice v s).2) rfl rfl _ vs _ hother]
    rfl

theorem mixAll_eq (s : State) :
    mixAll s = ({ s with env := advancedEnv voiceOrder s.env },
      mixSum s s.mvolL voiceOrder 0, mixSum s s.mvolR voiceOrder 0) :=
  mixVoices_eq voiceOrder (by decide) s 0 0

/-- Every slot advances once in a TICK (R170). -/
theorem advancedEnv_get (vs : List Voice) (hnd : vs.Nodup) (env : Vector (Option Env) 8) (v : Voice) :
    (advancedEnv vs env)[v] = if v ∈ vs then (advSlot env[v]).2 else env[v] := by
  induction vs generalizing env with
  | nil => simp [advancedEnv]
  | cons u vs ih =>
    obtain ⟨hu, hvs⟩ := List.nodup_cons.mp hnd
    have := ih hvs (env.set u (advSlot env[u]).2)
    simp only [advancedEnv, List.foldl_cons] at this ⊢
    rw [this]
    by_cases h : v = u
    · subst h; simp [hu]
    · have hne : u.val ≠ v.val := fun h' => h (Fin.ext h'.symm)
      simp [h, hne]

theorem advancedEnv_voiceOrder (env : Vector (Option Env) 8) (v : Voice) :
    (advancedEnv voiceOrder env)[v] = (advSlot env[v]).2 := by
  rw [advancedEnv_get _ (by decide)]
  have : v ∈ voiceOrder := by revert v; decide
  simp [this]

/-- An enabled TICK, whole (R170). -/
theorem tickEffect_eq (s : State) :
    tickEffect s = { s with
      env := advancedEnv voiceOrder s.env
      pkt := s.pkt ++ [⟨toI16 (mixSum s s.mvolL voiceOrder 0), toI16 (mixSum s s.mvolR voiceOrder 0)⟩] } := by
  simp only [tickEffect, mixAll_eq]
  rfl

/-- The three answers of TICK (R170, R174, R189). -/
theorem execTick_cases (s : State) :
    (s.closed = true ∧ execTick s = .refused .tickAfterClose) ∨
    (s.closed = false ∧ s.pktFill < s.params.packetFrames ∧ execTick s = .next (tickEffect s)) ∨
    (s.closed = false ∧ s.params.packetFrames ≤ s.pktFill ∧ execTick s = .next (holdTick s)) := by
  unfold execTick State.tickEnabled
  cases hc : s.closed
  · by_cases h : s.pktFill < s.params.packetFrames
    · simp [h]
    · simp [h, Nat.not_lt.mp h]
  · simp

end Sys2Proof.Machine
end

