-- ==== Sys2Proof/Laws/Machine.lean ====
section
/-! SUPPORT. What a step can do, said once: the inversion lemma of `step`, and what `exec` can do to the packet, the queue and
the envelope slots. Provers cite these instead of unfolding. -/
namespace Sys2Proof.Machine

open Sys2Proof

/-! ### Turns -/

/-- A code word run for an agent: it decoded to an operation of that agent, and the operation answered. -/
theorem runFor_next {a : Agent} {c : Code} {s t : State} (h : runFor a c s = .next t) :
    ∃ i, decode c = .ok i ∧ i.agent = a ∧ exec i s = .next t := by
  unfold runFor at h
  split at h
  · split at h
    · exact ⟨_, ‹_›, ‹_›, h⟩
    · cases h
  · cases h

theorem runFor_of_decode {a : Agent} {c : Code} {i : Instr} (hd : decode c = .ok i) (ha : i.agent = a) (s : State) :
    runFor a c s = exec i s := by
  unfold runFor
  rw [hd]
  exact if_pos ha

/-- After a command: its own next state, or its refusal recorded, which is none of those that end the run. -/
theorem afterCommand_next {s t : State} {r : Result} (h : afterCommand s r = .next t) :
    r = .next t ∨ ∃ x, x ≠ .wrongAgent ∧ r = .refused x ∧ t = recordRefusal x s := by
  unfold afterCommand at h
  split at h
  · cases h; exact .inr ⟨_, by decide, rfl, rfl⟩
  · cases h; exact .inr ⟨_, by decide, rfl, rfl⟩
  · cases h; exact .inr ⟨_, by decide, rfl, rfl⟩
  · exact .inl h

@[simp] theorem afterCommand_of_next (s t : State) : afterCommand s (.next t) = .next t := rfl

/-- PULL is the consumer's only operation (R81). -/
theorem agent_consumer {i : Instr} (h : i.agent = .consumer) : ∃ n, i = .pull n := by
  cases i <;> simp_all [Instr.agent]

theorem thenPublish_next {r : Result} {t : State} (h : thenPublish r = .next t) :
    ∃ u, r = .next u ∧ t = publishIfDue u := by
  cases r <;> simp_all [thenPublish]

theorem startFor_next {c : Code} {s t : State} (h : startFor c s = .next t) :
    ∃ n, decode c = .ok (.pull n) ∧ t = startPull n s := by
  unfold startFor at h
  split at h
  · cases h; exact ⟨_, ‹_›, rfl⟩
  · cases h
  · cases h

/-- The consumer's turn, whole or in parts: a part of the PULL in progress, nothing to do, the next command run or started, or
the next command refused and recorded. -/
theorem consumer_next {t : Turn} (ht : t = .consumer ∨ t = .consumerPart) {s u : State} (h : takeTurn t s = .next u) :
    (∃ p, s.pulling = some p ∧ u = pullPart p s) ∨
    (s.pulling = none ∧ s.consIn = [] ∧ u = s) ∨
    (∃ w rest n, s.pulling = none ∧ s.consIn = w :: rest ∧ decode (.cmd w) = .ok (.pull n) ∧
      ((t = .consumer ∧ execPull n { s with consIn := rest } = .next u) ∨
       (t = .consumerPart ∧ u = startPull n { s with consIn := rest }))) ∨
    (∃ w rest x, s.pulling = none ∧ s.consIn = w :: rest ∧ u = recordRefusal x { s with consIn := rest }) := by
  cases hp : s.pulling with
  | some p =>
    rcases ht with rfl | rfl <;> simp only [takeTurn, consumerTurn, consumerPartTurn, hp] at h <;> cases h <;>
      exact .inl ⟨p, rfl, rfl⟩
  | none =>
    refine .inr ?_
    cases hc : s.consIn with
    | nil =>
      rcases ht with rfl | rfl <;> simp only [takeTurn, consumerTurn, consumerPartTurn, hp, hc] at h <;> cases h <;>
        exact .inl ⟨rfl, rfl, rfl⟩
    | cons w rest =>
      refine .inr ?_
      rcases ht with rfl | rfl <;> simp only [takeTurn, consumerTurn, consumerPartTurn, hp, hc] at h <;>
        rcases afterCommand_next h with h | ⟨x, _, _, rfl⟩
      · obtain ⟨i, hd, ha, he⟩ := runFor_next h
        obtain ⟨n, rfl⟩ := agent_consumer ha
        exact .inl ⟨w, rest, n, rfl, rfl, hd, .inl ⟨rfl, hp ▸ he⟩⟩
      · exact .inr ⟨w, rest, x, rfl, rfl, rfl⟩
      · obtain ⟨n, hd, rfl⟩ := startFor_next h
        exact .inl ⟨w, rest, n, rfl, rfl, hd, .inr ⟨rfl, rfl⟩⟩
      · exact .inr ⟨w, rest, x, rfl, rfl, rfl⟩

/-- The producer's turn: PUBLISH where due, the next command if there is one, or its refusal recorded, PUBLISH where due. -/
theorem producer_next {s t : State} (h : takeTurn .producer s = .next t) :
    ((publishIfDue s).prodIn = [] ∧ t = publishIfDue (publishIfDue s)) ∨
    (∃ c b rest i u, (publishIfDue s).prodIn = ⟨c, b⟩ :: rest ∧ decode c = .ok i ∧ i.agent = .producer ∧
      exec i { publishIfDue s with prodIn := rest, brrIn := b } = .next u ∧ t = publishIfDue u) ∨
    (∃ c b rest x, (publishIfDue s).prodIn = ⟨c, b⟩ :: rest ∧
      t = publishIfDue (recordRefusal x { publishIfDue s with prodIn := rest })) := by
  obtain ⟨u, hu, rfl⟩ := thenPublish_next h
  unfold runProducer at hu
  split at hu
  · cases hu; exact .inl ⟨‹_›, rfl⟩
  · rcases afterCommand_next hu with hu | ⟨x, _, _, rfl⟩
    · obtain ⟨i, hd, ha, he⟩ := runFor_next hu
      exact .inr (.inl ⟨_, _, _, i, u, ‹_›, hd, ha, he, rfl⟩)
    · exact .inr (.inr ⟨_, _, _, x, ‹_›, rfl⟩)

/-- Everything a step can do. -/
theorem step_cases {s t : State} (h : step s = .next t) :
    (s.turns = [] ∧ t = s) ∨
    (∃ ts, s.turns = .producer :: ts ∧ takeTurn .producer { s with turns := ts } = .next t) ∨
    (∃ ts, s.turns = .publish :: ts ∧ t = publishIfDue { s with turns := ts }) ∨
    (∃ k ts, s.turns = k :: ts ∧ (k = .consumer ∨ k = .consumerPart) ∧ takeTurn k { s with turns := ts } = .next t) ∨
    (∃ d ts, s.turns = .reset d :: ts ∧ t = resetBlock d { s with turns := ts }) := by
  unfold step at h
  split at h
  · cases h; exact .inl ⟨‹_›, rfl⟩
  · rename_i k ts hts
    cases k
    · exact .inr (.inl ⟨ts, hts, h⟩)
    · cases h; exact .inr (.inr (.inl ⟨ts, hts, rfl⟩))
    · exact .inr (.inr (.inr (.inl ⟨_, ts, hts, .inl rfl, h⟩)))
    · exact .inr (.inr (.inr (.inl ⟨_, ts, hts, .inr rfl, h⟩)))
    · cases h; exact .inr (.inr (.inr (.inr ⟨_, ts, hts, rfl⟩)))

/-- A state whose next turn is a reset is not one of those that the statements about ordinary steps speak of. -/
theorem resetDue_cons {s : State} {d : Draw} {ts : List Turn} (h : s.turns = .reset d :: ts) : s.resetDue = true := by
  unfold State.resetDue; rw [h]

/-! ### Operations -/

/-- A curve that a key-on may install: a first curve, with its step or level in range (R25, R112). -/
def firstOk : Curve → Bool
  | .attack n | .decay n | .linIncr n | .bentIncr n | .linDecr n | .expDecr n => decide (StepOk n)
  | .static l => decide (l ≤ 2047)
  | .sustain _ | .fade => false

theorem firstOk_isFirst {c : Curve} (h : firstOk c = true) : c.isFirst = true := by cases c <;> trivial

theorem adsrCurve_ok : ∀ (a : BitVec 4) (d : BitVec 3), firstOk (adsrCurve (attackStep a) (decayStep d)) = true := by decide

theorem curveByte_ok : ∀ (m : BitVec 2) (p : BitVec 5), firstOk (gainCurve (.curve m (stepS p))) = true := by decide

theorem directByte_ok (l : BitVec 7) : firstOk (.static (directLevel l)) = true := by
  have := l.isLt
  have h : l.toNat * 16 ≤ 2047 := by omega
  exact decide_eq_true h

theorem gainByte_ok (b : BitVec 8) : firstOk (gainCurve (decodeGain b)) = true := by
  unfold decodeGain
  split
  · exact directByte_ok _
  · exact curveByte_ok _ _

/-- A fresh envelope meets the invariants of R29. -/
theorem fresh_envInv {c : Curve} (h : firstOk c = true) {g : Int} (hg : initialGain c = some g) (sl : BitVec 3)
    (sr : BitVec 5) (d : BitVec 3) : EnvInv ⟨c, g, 0, snapshot sl sr d⟩ := by
  refine ⟨⟨sl, sr, d, rfl⟩, ?_⟩
  cases c <;> simp only [firstOk, decide_eq_true_eq, initialGain, Option.some.injEq, reduceCtorEq] at h hg <;> subst hg
  case static l => exact ⟨rfl, h, rfl⟩
  all_goals simp only [Config.maxGain]; exact ⟨h, by omega, by omega, h.1⟩

/-- Everything an operation that answers can do: latch a voice register, latch a volume, answer a view, put a fresh envelope in
a slot, advance one slot, tick, hold, close, pull. -/
inductive ExecEffect (s : State) : Instr → State → Prop
  | setAdsr (v : Voice) (w) : ExecEffect s (.wradsr v w) (s.setAdsr v w)
  | setGain (v : Voice) (b) : ExecEffect s (.wrgain v b) (s.setGain v b)
  | setMvolL (b) : ExecEffect s (.wrmvoll b) { s with mvolL := b }
  | setMvolR (b) : ExecEffect s (.wrmvolr b) { s with mvolR := b }
  | view (v : Voice) : ExecEffect s (.rdenvx v) { s with envxOut := s.envx v }
  | install (i) (v : Voice) (c g sl sr d) (hi : isKeyOn i = true) (hv : i.voice? = some v.val) (hc : firstOk c = true)
      (hg : initialGain c = some g) : ExecEffect s i (s.setEnv v (some ⟨c, g, 0, snapshot sl sr d⟩))
  | keyOff (v : Voice) : ExecEffect s (.koff v) (s.setEnv v (keyOffSlot s.env[v]))
  | advance (v : Voice) : ExecEffect s (.adv v) { (advVoice v s).2 with advOut := encodeAdv (advVoice v s).1 }
  | tick (hc : s.closed = false) (hf : s.pktFill < s.params.packetFrames) : ExecEffect s .tick (tickEffect s)
  | hold (hc : s.closed = false) (hf : s.params.packetFrames ≤ s.pktFill) : ExecEffect s .tick (holdTick s)
  | close : ExecEffect s .close (closeQueue s)
  | pull (n) : ExecEffect s (.pull n) { (pullFrames n.toNat s).2 with buffer := (pullFrames n.toNat s).1 }

theorem onVoice_install {v : Nat} {i : Instr} {c : Voice → Curve} {sl : Voice → BitVec 3} {sr : Voice → BitVec 5}
    {d : Voice → BitVec 3} {s t : State} (hi : isKeyOn i = true) (hv : i.voice? = some v) (hc : ∀ u, firstOk (c u) = true)
    (h : (onVoice v fun u => installEnv u (c u) (snapshot (sl u) (sr u) (d u)) s) = .next t) : ExecEffect s i t := by
  obtain ⟨u, hu, h⟩ := onVoice_next h
  obtain ⟨g, hg, hin⟩ := installEnv_first (firstOk_isFirst (hc u)) u (snapshot (sl u) (sr u) (d u)) s
  rw [hin] at h
  cases h
  exact .install i u (c u) g (sl u) (sr u) (d u) hi (by rw [hv, hu]) (hc u) hg

/-- The case of an ADSR word's fields as operands. -/
theorem installField_effect {v : Nat} {i : Instr} {c : Voice → Curve} {sl : BitVec 3} {sr : BitVec 5} {d : BitVec 3}
    {s t : State} (hi : isKeyOn i = true) (hv : i.voice? = some v) (hc : ∀ u, firstOk (c u) = true)
    (h : (onVoice v fun u => installEnv u (c u) (snapshot sl sr d) s) = .next t) : ExecEffect s i t :=
  onVoice_install (sl := fun _ => sl) (sr := fun _ => sr) (d := fun _ => d) hi hv hc h

/-- The case of the snapshot of the voice's own register. -/
theorem installReg_effect {v : Nat} {i : Instr} {c : Voice → Curve} {s t : State} (hi : isKeyOn i = true)
    (hv : i.voice? = some v) (hc : ∀ u, firstOk (c u) = true)
    (h : (onVoice v fun u => installEnv u (c u) (snapshotOf s.adsr[u]) s) = .next t) : ExecEffect s i t :=
  onVoice_install (sl := fun u => slField s.adsr[u]) (sr := fun u => srField s.adsr[u]) (d := fun u => dField s.adsr[u])
    hi hv hc h

theorem exec_effect {i : Instr} {s t : State} (h : exec i s = .next t) : ExecEffect s i t := by
  cases i
  case wradsr v w =>
    simp only [exec, execWradsr] at h
    obtain ⟨u, rfl, hu⟩ := onVoice_next h; cases hu; exact .setAdsr u w
  case wrgain v b =>
    simp only [exec, execWrgain] at h
    obtain ⟨u, rfl, hu⟩ := onVoice_next h; cases hu; exact .setGain u b
  case wrmvoll b => cases h; exact .setMvolL b
  case wrmvolr b => cases h; exact .setMvolR b
  case rdenvx v =>
    simp only [exec, execRdenvx] at h
    obtain ⟨u, rfl, hu⟩ := onVoice_next h; cases hu; exact .view u
  case koff v =>
    simp only [exec, execKoff] at h
    obtain ⟨u, rfl, hu⟩ := onVoice_next h; cases hu; exact .keyOff u
  case adv v =>
    simp only [exec, execAdv] at h
    obtain ⟨u, rfl, hu⟩ := onVoice_next h; cases hu; exact .advance u
  case tick =>
    have h : execTick s = .next t := h
    rcases execTick_cases s with ⟨_, he⟩ | ⟨hc, hf, he⟩ | ⟨hc, hf, he⟩ <;> rw [he] at h <;> cases h
    · exact .tick hc hf
    · exact .hold hc hf
  case close => cases h; exact .close
  case pull n => cases h; exact .pull n
  case kon v =>
    refine installReg_effect (c := fun u => initialCurve (decodeAdsr s.adsr[u]) (decodeGain s.gain[u])) rfl rfl (fun u => ?_) h
    unfold initialCurve
    split
    · exact adsrCurve_ok _ _
    · exact gainByte_ok _
  case konDecay v sl sr d =>
    exact installField_effect (c := fun _ => .decay (decayStep d)) rfl rfl (fun _ => adsrCurve_ok 15#4 d) h
  case konAttack v sl sr d a =>
    exact installField_effect (c := fun _ => adsrCurve (attackStep a) (decayStep d)) rfl rfl (fun _ => adsrCurve_ok a d) h
  case konGainsel v sl sr d a =>
    exact installField_effect (c := fun u => gainCurve (decodeGain s.gain[u])) rfl rfl (fun u => gainByte_ok s.gain[u]) h
  case konDirect v l =>
    exact installReg_effect (c := fun _ => .static (directLevel l)) rfl rfl (fun _ => directByte_ok l) h
  case konHoldmax v m =>
    exact installReg_effect (c := fun _ => gainCurve (.curve 0#2 none)) rfl rfl (fun _ => curveByte_ok 0#2 0#5) h
  case konHoldzero v m =>
    exact installReg_effect (c := fun _ => gainCurve (.curve 2#2 none)) rfl rfl (fun _ => curveByte_ok 2#2 0#5) h
  case konLindecr v p =>
    exact installReg_effect (c := fun _ => gainCurve (.curve 0#2 (stepS p))) rfl rfl (fun _ => curveByte_ok 0#2 p) h
  case konExpdecr v p =>
    exact installReg_effect (c := fun _ => gainCurve (.curve 1#2 (stepS p))) rfl rfl (fun _ => curveByte_ok 1#2 p) h
  case konLinincr v p =>
    exact installReg_effect (c := fun _ => gainCurve (.curve 2#2 (stepS p))) rfl rfl (fun _ => curveByte_ok 2#2 p) h
  case konBentincr v p =>
    exact installReg_effect (c := fun _ => gainCurve (.curve 3#2 (stepS p))) rfl rfl (fun _ => curveByte_ok 3#2 p) h

end Sys2Proof.Machine
end

