-- ==== Sys2Proof/Laws/PerInstr.lean ====
section
/-! SUPPORT. Statements made per instruction. Family TableRow: the code word of a well-formed instruction is selected, by mask
and match, by the instruction's own row of the opcode table (R81, R99). -/
namespace Sys2Proof.Laws.TableRow

open Sys2Proof

/-- The encoder writes words of the instruction's own row. -/
def Statement (i : Instr) : Prop := i.WellFormed → (opRow i).selects (encode i) = true

theorem wradsr (v : Nat) (imm : BitVec 16) : Statement (.wradsr v imm) := by
  intro _; simp [opRow, encode, OpRow.selects, Code.bits, and_F8FF0000, packCmd_toNat]; omega
theorem wrgain (v : Nat) (imm : BitVec 8) : Statement (.wrgain v imm) := by
  intro _; simp [opRow, encode, OpRow.selects, Code.bits, and_F8FFFF00, packCmd_toNat, byteData_toNat]; omega
theorem kon (v : Nat) : Statement (.kon v) := by
  intro _; simp [opRow, encode, OpRow.selects, Code.bits, and_F8FFFFFF, packCmd_toNat]; omega
theorem koff (v : Nat) : Statement (.koff v) := by
  intro _; simp [opRow, encode, OpRow.selects, Code.bits, and_F8FFFFFF, packCmd_toNat]; omega
theorem rdenvx (v : Nat) : Statement (.rdenvx v) := by
  intro _; simp [opRow, encode, OpRow.selects, Code.bits, and_F8FFFFFF, packCmd_toNat]; omega
theorem wrmvoll (imm : BitVec 8) : Statement (.wrmvoll imm) := by
  intro _; simp [opRow, encode, OpRow.selects, Code.bits, and_FFFFFF00, packCmd_toNat, byteData_toNat]; omega
theorem wrmvolr (imm : BitVec 8) : Statement (.wrmvolr imm) := by
  intro _; simp [opRow, encode, OpRow.selects, Code.bits, and_FFFFFF00, packCmd_toNat, byteData_toNat]; omega
theorem adv (v : Nat) : Statement (.adv v) := by
  intro _; simp [opRow, encode, OpRow.selects, Code.bits, and_F8FFFFFF, packCmd_toNat]; omega
theorem tick : Statement .tick := fun _ => by decide
theorem close : Statement .close := fun _ => by decide
theorem pull (n : BitVec 16) : Statement (.pull n) := by
  intro _; simp [opRow, encode, OpRow.selects, Code.bits, and_FFFF0000, packCmd_toNat]; omega
theorem konDecay (v : Nat) (sl : BitVec 3) (sr : BitVec 5) (d : BitVec 3) : Statement (.konDecay v sl sr d) := by
  intro _; simp [opRow, encode, OpRow.selects, Code.bits, and_8F, encodeAdsr_toNat]; omega
theorem konAttack (v : Nat) (sl : BitVec 3) (sr : BitVec 5) (d : BitVec 3) (a : BitVec 4) :
    Statement (.konAttack v sl sr d a) := by
  intro _; simp [opRow, encode, OpRow.selects, Code.bits, and_80, encodeAdsr_toNat]; omega
theorem konGainsel (v : Nat) (sl : BitVec 3) (sr : BitVec 5) (d : BitVec 3) (a : BitVec 4) :
    Statement (.konGainsel v sl sr d a) := by
  intro _; simp [opRow, encode, OpRow.selects, Code.bits, and_80, encodeAdsr_toNat]; omega
theorem konDirect (v : Nat) (l : BitVec 7) : Statement (.konDirect v l) := by
  intro _; simp [opRow, encode, OpRow.selects, Code.bits, and_80, encodeGainDirect_toNat]; omega
theorem konHoldmax (v : Nat) (m : BitVec 1) : Statement (.konHoldmax v m) := by
  intro _; simp [opRow, encode, OpRow.selects, Code.bits, and_DF, encodeGainCurve_toNat, modeLow_toNat]; omega
theorem konHoldzero (v : Nat) (m : BitVec 1) : Statement (.konHoldzero v m) := by
  intro _; simp [opRow, encode, OpRow.selects, Code.bits, and_DF, encodeGainCurve_toNat, modeHigh_toNat]; omega
theorem konLindecr (v : Nat) (p : BitVec 5) : Statement (.konLindecr v p) := by
  intro _; simp [opRow, encode, OpRow.selects, Code.bits, and_E0, encodeGainCurve_toNat]; omega
theorem konExpdecr (v : Nat) (p : BitVec 5) : Statement (.konExpdecr v p) := by
  intro _; simp [opRow, encode, OpRow.selects, Code.bits, and_E0, encodeGainCurve_toNat]; omega
theorem konLinincr (v : Nat) (p : BitVec 5) : Statement (.konLinincr v p) := by
  intro _; simp [opRow, encode, OpRow.selects, Code.bits, and_E0, encodeGainCurve_toNat]; omega
theorem konBentincr (v : Nat) (p : BitVec 5) : Statement (.konBentincr v p) := by
  intro _; simp [opRow, encode, OpRow.selects, Code.bits, and_E0, encodeGainCurve_toNat]; omega

end Sys2Proof.Laws.TableRow
end

