-- ==== Sys2Proof/Tests/Slice0.lean ====
section
/-! SUPPORT. The model's own tests. Expected results are spec/95_test_vectors.md's, the examples inside the rules, or hand
calculation from a rule, as each comment says. Then, for every statement with hypotheses, a witness that meets them. -/
namespace Sys2Proof.Tests

open Sys2Proof Sys2Proof.Machine

/-! ### Helpers -/

/-- A field of the next state, if there is one. -/
def got {α : Type} (f : State → α) : Result → Option α
  | .next s => some (f s)
  | .fault _ => none
  | .refused _ => none

/-- The refusal, if there is one. -/
def refusal : Result → Option Refusal
  | .refused r => some r
  | .next _ => none
  | .fault _ => none

/-- Reset with an envelope in voice 0. -/
def sounding (c : Curve) (g : Int) (k : Nat) (cfg : EnvCfg) : State := State.reset.setEnv 0 (some ⟨c, g, k, cfg⟩)

/-- Reset with the registers of voice 0 written. -/
def latched (w : BitVec 16) (b : BitVec 8) : State := (State.reset.setAdsr 0 w).setGain 0 b

/-- The snapshot of ADSR word 0. -/
def cfg0 : EnvCfg := ⟨64, 255, none⟩

/-- Reset at other parameters. -/
def small (packetFrames queueCapacity hostRate : Nat) : State :=
  State.resetWith ⟨packetFrames, queueCapacity, hostRate, 2, 11, 7⟩ Draw.zero

/-- A packet of two frames. -/
def packet2 : Packet := [⟨16384, 0x8000⟩, ⟨16384, 0x8000⟩]

/-! ### Well-formedness refuses ill-formed terms -/

theorem test_voice_out_of_range_is_ill_formed :
    ¬(Instr.wradsr 8 0).WellFormed ∧ ¬(Instr.kon 8).WellFormed ∧ ¬(Instr.konDirect 8 0).WellFormed := by decide
theorem test_attack_with_skip_index_is_ill_formed : ¬(Instr.konAttack 0 0 0 0 15#4).WellFormed := by decide
theorem test_curve_with_param_zero_is_ill_formed :
    ¬(Instr.konLindecr 0 0#5).WellFormed ∧ ¬(Instr.konExpdecr 0 0#5).WellFormed ∧
    ¬(Instr.konLinincr 0 0#5).WellFormed ∧ ¬(Instr.konBentincr 0 0#5).WellFormed := by decide
theorem test_ordinary_terms_are_well_formed :
    (Instr.wradsr 7 0).WellFormed ∧ (Instr.konAttack 7 0 0 0 14#4).WellFormed ∧ (Instr.konBentincr 7 31#5).WellFormed := by
  decide

/-! ### Decoding, from words written out by the spec's encodings (R80 to R83, R99) -/

-- fields op, z1, voice, z2, data
theorem test_decode_wradsr : decode (.cmd (0b0001_0_011_00000000_0000000010000000#32)) = .ok (.wradsr 3 0x0080#16) := by decide
theorem test_decode_wrgain : decode (.cmd (0b0010_0_000_00000000_0000000011011111#32)) = .ok (.wrgain 0 0xDF#8) := by decide
theorem test_decode_kon : decode (.cmd (0b0011_0_010_00000000_0000000000000000#32)) = .ok (.kon 2) := by decide
theorem test_decode_koff : decode (.cmd (0b0100_0_101_00000000_0000000000000000#32)) = .ok (.koff 5) := by decide
theorem test_decode_rdenvx : decode (.cmd (0b0101_0_111_00000000_0000000000000000#32)) = .ok (.rdenvx 7) := by decide
theorem test_decode_wrmvoll : decode (.cmd (0b0110_0_000_00000000_0000000001111111#32)) = .ok (.wrmvoll 0x7F#8) := by decide
theorem test_decode_wrmvolr : decode (.cmd (0b0111_0_000_00000000_0000000010000000#32)) = .ok (.wrmvolr 0x80#8) := by decide
theorem test_decode_adv : decode (.cmd (0b1000_0_001_00000000_0000000000000000#32)) = .ok (.adv 1) := by decide
theorem test_decode_tick : decode (.cmd (0b1001_0_000_00000000_0000000000000000#32)) = .ok .tick := by decide
theorem test_decode_close : decode (.cmd (0b1010_0_000_00000000_0000000000000000#32)) = .ok .close := by decide
theorem test_decode_pull : decode (.cmd (0b1011_0_000_00000000_0000000100000000#32)) = .ok (.pull 256#16) := by decide
-- fields sl_idx, sr_idx, adsr_enable, d_idx, a_idx
theorem test_decode_kon_decay : decode (.adsr16 2 (0b100_01111_1_111_1111#16)) = .ok (.konDecay 2 4#3 15#5 7#3) := by decide
theorem test_decode_kon_attack :
    decode (.adsr16 2 (0b010_00011_1_101_1110#16)) = .ok (.konAttack 2 2#3 3#5 5#3 14#4) := by decide
theorem test_decode_kon_gainsel :
    decode (.adsr16 2 (0b100_01111_0_000_0000#16)) = .ok (.konGainsel 2 4#3 15#5 0#3 0#4) := by decide
-- fields direct_flag, then direct_level or gain_mode and gain_param
theorem test_decode_kon_direct : decode (.gain8 6 (0b0_1111111#8)) = .ok (.konDirect 6 127#7) := by decide
theorem test_decode_kon_holdmax : decode (.gain8 6 (0b1_01_00000#8)) = .ok (.konHoldmax 6 1#1) := by decide
theorem test_decode_kon_holdzero : decode (.gain8 6 (0b1_10_00000#8)) = .ok (.konHoldzero 6 0#1) := by decide
theorem test_decode_kon_lindecr : decode (.gain8 6 (0b1_00_11111#8)) = .ok (.konLindecr 6 31#5) := by decide
theorem test_decode_kon_expdecr : decode (.gain8 6 (0b1_01_00001#8)) = .ok (.konExpdecr 6 1#5) := by decide
theorem test_decode_kon_linincr : decode (.gain8 6 (0b1_10_11111#8)) = .ok (.konLinincr 6 31#5) := by decide
theorem test_decode_kon_bentincr : decode (.gain8 6 (0b1_11_01010#8)) = .ok (.konBentincr 6 10#5) := by decide

/-- R92's five ways to match no row, and the two reserved ranges of `op`. -/
theorem test_bad_words_are_refused :
    ([0x00000000#32, 0xC0000000#32, 0xF0000000#32, 0x38000000#32, 0x30010000#32, 0x91000000#32, 0x20000100#32,
      0x30000001#32].map fun w => decode (.cmd w)) = List.replicate 8 (.error .badCommand) := by decide

/-- The words of the examples of R114, R115, R116, R117, R206 are what the encoder gives. -/
theorem test_encode_examples :
    encode (.wradsr 3 0x0080#16) = .cmd 0x13000080#32 ∧ encode (.wrgain 0 0xDF#8) = .cmd 0x200000DF#32 ∧
    encode (.wrmvoll 0x7F#8) = .cmd 0x6000007F#32 ∧ encode (.wrmvolr 0x80#8) = .cmd 0x70000080#32 ∧
    encode (.pull 256#16) = .cmd 0xB0000100#32 ∧ encode .tick = .cmd 0x90000000#32 := by decide

/-- The bits of a table row reach the decoder. -/
theorem test_decode_table_word :
    decodeTableWord 32 0x13000080 = some (.wradsr 3 0x0080#16) ∧
    decodeTableWord 16 0x8FFF = some (.konDecay 0 4#3 15#5 7#3) ∧
    decodeTableWord 8 0xDF = some (.konLinincr 0 31#5) ∧ decodeTableWord 32 0 = none := by decide

/-- A placed word is run by the next step. -/
theorem test_placed_command_runs :
    got (fun s => s.adsr[3]) (step (State.reset.withFetchWord 32 0x13000080)) = some 0x0080#16 := by decide
theorem test_placed_adsr_word_runs :
    got (fun s => s.env[0]) (step (State.reset.withFetchWord 16 0x8FFF)) = some (some ⟨.decay 2, 2016, 0, ⟨2, 1279, some 80⟩⟩) := by
  decide
theorem test_placed_gain_byte_runs :
    got (fun s => s.env[0]) (step (State.reset.withFetchWord 8 0xDF)) = some (some ⟨.linIncr 1, 0, 0, cfg0⟩) := by decide
theorem test_placed_pull_runs :
    got (fun s => s.buffer.length) (step (State.reset.withFetchWord 32 0xB0000003)) = some 6 := by decide
/-- R229: a refused word is taken off the port and marks the run. -/
theorem test_placed_bad_word_is_recorded :
    got (fun s => (s.prodIn, s.refusals)) (step (State.reset.withFetchWord 32 0)) = some ([], [.badCommand]) := by decide
/-- A PULL word on the producer's port ends the run (log entry 9). -/
theorem test_wrong_agent_ends_the_run :
    refusal (step { State.reset with turns := [.producer], prodIn := [⟨.cmd 0xB0000001#32, Vector.replicate 8 0#16⟩] }) =
      some .wrongAgent := by decide

/-! ### Register operations -/

/-- R114. -/
theorem test_wradsr : got (fun s => (s.adsr[3], s.gain[3], s.env[3])) (exec (.wradsr 3 0x0080#16) State.reset) =
    some (0x0080#16, 0#8, none) := by decide
/-- R115; program P3, command 5: the sounding envelope does not change. -/
theorem test_wrgain : got (fun s => (s.gain[0], s.env[0])) (exec (.wrgain 0 0xDF#8) (sounding (.linDecr 1) 1920 0 cfg0)) =
    some (0xDF#8, some ⟨.linDecr 1, 1920, 0, cfg0⟩) := by decide
/-- R116, R117: the bytes are read as +127 and -128. -/
theorem test_wrmvoll : got (fun s => (s.mvolL.toInt, s.mvolR.toInt)) (exec (.wrmvoll 0x7F#8) State.reset) = some (127, 0) := by
  decide
theorem test_wrmvolr : got (fun s => (s.mvolL.toInt, s.mvolR.toInt)) (exec (.wrmvolr 0x80#8) State.reset) = some (0, -128) := by
  decide
/-- R118's corner cases. -/
theorem test_rdenvx :
    ∀ p ∈ [((2047 : Int), 127#8), (2032, 127#8), (2016, 126#8), (15, 0#8), (16, 1#8), (-3, 0#8)],
      got (fun s => s.envxOut) (exec (.rdenvx 0) (sounding .fade p.1 0 cfg0)) = some p.2 := by decide
theorem test_rdenvx_absent : got (fun s => s.envxOut) (exec (.rdenvx 0) { State.reset with envxOut := 9#8 }) = some 0#8 := by
  decide

/-! ### Key-on -/

/-- The example of R130. -/
theorem test_kon : got (fun s => s.env[0]) (exec (.kon 0) (latched 0x0080#16 0#8)) =
    some (some ⟨.attack 2048, 0, 0, ⟨64, 255, none⟩⟩) := by decide
/-- R112 lines 3 to 9 on the bytes 0x7F, 0x80, 0xE0, 0x9F, 0xBF, 0xDF, 0xFF. -/
theorem test_kon_gain_bytes :
    ∀ p ∈ [(0x7F#8, Curve.static 2032, (2032 : Int)), (0x80#8, .static 2016, 2016), (0xE0#8, .static 0, 0),
        (0x9F#8, .linDecr 1, 2016), (0xBF#8, .expDecr 1, 2016), (0xDF#8, .linIncr 1, 0), (0xFF#8, .bentIncr 1, 0)],
      got (fun s => s.env[0]) (exec (.kon 0) (latched 0x0000#16 p.1)) = some (some ⟨p.2.1, p.2.2, 0, cfg0⟩) := by decide
/-- Program P1, command 3. -/
theorem test_kon_decay : got (fun s => s.env[1]) (exec (.konDecay 1 7#3 0#5 7#3) State.reset) =
    some (some ⟨.decay 2, 2016, 0, ⟨2, 2047, none⟩⟩) := by decide
theorem test_kon_attack : got (fun s => s.env[1]) (exec (.konAttack 1 0#3 0#5 0#3 0#4) State.reset) =
    some (some ⟨.attack 2048, 0, 0, cfg0⟩) := by decide
/-- R90: the gain byte decides, the ADSR fields still reach the snapshot. -/
theorem test_kon_gainsel : got (fun s => s.env[0]) (exec (.konGainsel 0 4#3 15#5 7#3 3#4) (latched 0#16 0x40#8)) =
    some (some ⟨.static 1024, 1024, 0, ⟨2, 1279, some 80⟩⟩) := by decide
theorem test_kon_direct : got (fun s => s.env[0]) (exec (.konDirect 0 127#7) State.reset) =
    some (some ⟨.static 2032, 2032, 0, cfg0⟩) := by decide
theorem test_kon_holdmax : got (fun s => s.env[0]) (exec (.konHoldmax 0 1#1) State.reset) =
    some (some ⟨.static 2016, 2016, 0, cfg0⟩) := by decide
theorem test_kon_holdzero : got (fun s => s.env[0]) (exec (.konHoldzero 0 1#1) State.reset) =
    some (some ⟨.static 0, 0, 0, cfg0⟩) := by decide
theorem test_kon_lindecr : got (fun s => s.env[0]) (exec (.konLindecr 0 31#5) State.reset) =
    some (some ⟨.linDecr 1, 2016, 0, cfg0⟩) := by decide
theorem test_kon_expdecr : got (fun s => s.env[0]) (exec (.konExpdecr 0 1#5) State.reset) =
    some (some ⟨.expDecr 2048, 2016, 0, cfg0⟩) := by decide
theorem test_kon_linincr : got (fun s => s.env[0]) (exec (.konLinincr 0 15#5) State.reset) =
    some (some ⟨.linIncr 80, 0, 0, cfg0⟩) := by decide
/-- The snapshot is the ADSR register's (R130). -/
theorem test_kon_bentincr : got (fun s => s.env[0]) (exec (.konBentincr 0 31#5) (latched 0x8F70#16 0#8)) =
    some (some ⟨.bentIncr 1, 0, 0, ⟨2, 1279, some 80⟩⟩) := by decide

/-! ### Key-off and ADV -/

/-- The example of R131. -/
theorem test_koff : got (fun s => s.env[0]) (exec (.koff 0) (sounding (.decay 64) 2016 17 cfg0)) =
    some (some ⟨.fade, 2016, 0, cfg0⟩) := by decide
theorem test_koff_absent : got (fun s => s.env[0]) (exec (.koff 0) State.reset) = some none := by decide
/-- Program P1, command 5: the check runs on the first Decay tick and the gain rises to the held level. -/
theorem test_adv_decay_hold : got (fun s => (s.advOut, s.env[0])) (exec (.adv 0) (sounding (.decay 2) 2016 0 ⟨2, 2047, none⟩)) =
    some (0x107E0#17, some ⟨.static 2047, 2047, 0, ⟨2, 2047, none⟩⟩) := by decide
/-- R134: the call that enters Decay still returns 1984; R138: the knee; R141: a fade ends below zero and is then exhausted. -/
theorem test_adv_curves :
    got (fun s => (s.advOut, s.env[0])) (exec (.adv 0) (sounding (.attack 3) 1984 2 cfg0)) =
      some (0x107C0#17, some ⟨.decay 64, 2016, 0, cfg0⟩) ∧
    got (fun s => s.env[0]) (exec (.adv 0) (sounding (.bentIncr 1) 1536 0 cfg0)) = some (some ⟨.bentIncr 1, 1544, 0, cfg0⟩) ∧
    got (fun s => s.env[0]) (exec (.adv 0) (sounding (.bentIncr 1) 1504 0 cfg0)) = some (some ⟨.bentIncr 1, 1536, 0, cfg0⟩) ∧
    got (fun s => (s.advOut, s.env[0])) (exec (.adv 0) (sounding .fade 5 0 cfg0)) =
      some (0x10005#17, some ⟨.fade, -3, 0, cfg0⟩) ∧
    got (fun s => (s.advOut, s.env[0])) (exec (.adv 0) (sounding .fade (-3) 0 cfg0)) =
      some (0#17, some ⟨.fade, -3, 0, cfg0⟩) := by decide

/-! ### TICK -/

/-- Two static voices of gain 1024 and 512 at volumes +64 and -64, with samples 16384 and -8192. -/
def mixing : State :=
  { (State.reset.setEnv 0 (some ⟨.static 1024, 1024, 0, cfg0⟩)).setEnv 1 (some ⟨.static 512, 512, 0, cfg0⟩) with
    mvolL := 0x40#8, mvolR := 0xC0#8, brrIn := #v[16384, 0xE000, 0, 0, 0, 0, 0, 0] }

/-- The example of R172: the frame (3072, -3072). -/
theorem test_tick_frame : got (fun s => s.pkt.map fun f => (f.left.toInt, f.right.toInt)) (exec .tick mixing) =
    some [(3072, -3072)] := by decide

/-- Three voices of gain 2016, volume +127. -/
def saturating (brr : Vector (BitVec 16) 8) : State :=
  { ((State.reset.setEnv 0 (some ⟨.static 2016, 2016, 0, cfg0⟩)).setEnv 1 (some ⟨.static 2016, 2016, 0, cfg0⟩)).setEnv 2
      (some ⟨.static 2016, 2016, 0, cfg0⟩) with mvolL := 0x7F#8, brrIn := brr }

/-- R172: saturation at each addition, in voice order. -/
theorem test_tick_order :
    got (fun s => s.pkt.map fun f => f.left.toInt) (exec .tick (saturating #v[0x7FFF, 0x7FFF, 0x8000, 0, 0, 0, 0, 0])) =
      some [763] ∧
    got (fun s => s.pkt.map fun f => f.left.toInt) (exec .tick (saturating #v[0x8000, 0x7FFF, 0x7FFF, 0, 0, 0, 0, 0])) =
      some [32002] := by decide

/-! ### Queue -/

/-- Section 2.7 of the vectors: the tick that fills the packet is followed by PUBLISH in the same producer turn. -/
theorem test_publish_follows :
    got (fun s => (s.pktFill, s.q.length)) (step ({ small 2 2 48000 with pkt := [⟨0, 0⟩] }.withFetchWord 32 0x90000000)) =
      some (0, 1) := by decide
/-- A stalled tick waits; nothing is overwritten. -/
theorem test_stall_holds :
    got (fun s => (s.pktFill, s.q.length, s.prodIn.length))
      (step ({ small 2 1 48000 with pkt := packet2, q := [packet2] }.withFetchWord 32 0x90000000)) = some (2, 1, 1) := by decide
/-- The example of R187. -/
theorem test_close : got (fun s => (s.q.length, s.pktFill, s.closed)) (exec .close { small 2 2 48000 with pkt := [⟨1, 1⟩], q := [packet2] }) =
    some (1, 0, true) := by decide
/-- Program P4, command 10, then 3: after a refused TICK the next command runs. -/
theorem test_run_goes_on_after_refusal :
    (match Sys2Proof.core.run 2 ({ State.reset with closed := true }.withFetchWord 32 0x60000040 |>.withFetchWord 32 0x90000000) with
      | .next s => some (s.mvolL, s.refusals)
      | _ => none) = some (0x40#8, [.tickAfterClose]) := by decide
theorem test_tick_after_close : refusal (exec .tick { State.reset with closed := true }) = some .tickAfterClose := by decide

/-! ### Resampler -/

/-- The example of R200: two frames of the packet, then damping. -/
theorem test_src_next :
    (srcFrames 4 { small 2 4 32000 with q := [packet2] }).1 =
      [⟨0x3F000000, 0xBF800000⟩, ⟨0x3F000000, 0xBF800000⟩, ⟨0x3EFD70A4, 0xBF7D70A4⟩, ⟨0x3EFAE7D6, 0xBF7AE7D6⟩] := by decide
/-- Program P5, the first nine outputs at 48000: six source frames, three of them damped. -/
theorem test_pull :
    got (fun s => (s.phaseNum, s.curIdx, s.ring, s.buffer.length))
      (exec (.pull 9#16) { small 3 2 48000 with q := [[⟨1016, 1016⟩, ⟨2032, 2032⟩, ⟨3048, 3048⟩]] }) =
      some (0, 3, [⟨0x3DBAB584, 0x3DBAB584⟩, ⟨0x3DB8D78A, 0x3DB8D78A⟩], 18) := by decide
/-- Section 2.8 of the vectors. -/
theorem test_damp_values :
    fmul32 0x3CF78000#32 Config.damp = 0x3CF50667#32 ∧ fmul32 0xBEFD70A4#32 Config.damp = 0xBEFAE7D6#32 ∧
    fmul32 0x80000000#32 Config.damp = 0x80000000#32 ∧ fmul32 0x32#32 Config.damp = 0x32#32 := by decide
theorem test_to_f32_values :
    i16ToF32 0x03E8#16 = 0x3CFA0000#32 ∧ i16ToF32 0xE000#16 = 0xBE800000#32 ∧ i16ToF32 0x1000#16 = 0x3E000000#32 := by decide

/-! ### Witnesses: for each statement with hypotheses, a state and operands that meet them -/

/-- Reset with something scheduled and issued. -/
def issued (t : Turn) (p : List Issue) (c : List (BitVec 32)) (s : State) : State :=
  { s with turns := [t], prodIn := p, consIn := c }

/-- The TICK command with zero samples. -/
def tickIssue : Issue := ⟨.cmd 0x90000000#32, Vector.replicate 8 0#16⟩

theorem witness_DecodeReadsBackEveryEncoding :
    (Instr.konAttack 7 7 31 7 14).WellFormed ∧ (Instr.konExpdecr 0 1).WellFormed ∧ (Instr.pull 0xFFFF).WellFormed := by decide
theorem witness_EncodeReturnsEveryDecodedWord :
    decode (.cmd 0x1700FFFF#32) = .ok (.wradsr 7 0xFFFF) ∧ decode (.gain8 7 0xFF#8) = .ok (.konBentincr 7 31) := by decide
theorem witness_CommandDecodesExactlyByTableRow : decode (.cmd 0x37000000#32) = .ok (.kon 7) := by decide
theorem witness_UnlistedCommandWordIsRefused_words :
    (opField 0x00000000#32).toNat = 0 ∧ 12 ≤ (opField 0xC0000000#32).toNat ∧ z1Field 0x38000000#32 ≠ 0#1 ∧
    z2Field 0x30010000#32 ≠ 0#8 ∧
    (voiceField 0x91000000#32 ≠ 0#3 ∧ (opField 0x91000000#32).toNat ∈ [6, 7, 9, 10, 11]) ∧
    (highByteField 0x20000100#32 ≠ 0#8 ∧ (opField 0x20000100#32).toNat ∈ [2, 6, 7]) := by decide
theorem witness_UnlistedCommandWordIsRefused_ports :
    (∀ r ∈ cmdRows, r.selects (.cmd 0xC0000000#32) = false) ∧
    (issued .producer [⟨.cmd 0xC0000000#32, Vector.replicate 8 0#16⟩] [] State.reset).prodIn =
      [⟨.cmd 0xC0000000#32, Vector.replicate 8 0#16⟩] ∧
    (issued .consumer [] [0xC0000000#32] State.reset).pulling = none ∧
    (issued .consumer [] [0xC0000000#32] State.reset).consIn = [0xC0000000#32] := by decide
theorem witness_RegisterWordsPackAndUnpack :
    directFlag 0x7F#8 = 0#1 ∧ directFlag 0x80#8 = 1#1 ∧ (1#2).toNat < 2 ∧ 2 ≤ (2#2).toNat := by decide

/-- The clauses of `KonInstallsTheInitialCurve` that ask for a step or a mode. -/
theorem witness_KonInstallsTheInitialCurve_enabled :
    enField (latched 0x008E#16 0).adsr[(0 : Voice)] = 1#1 ∧
    attackStep (aField (latched 0x008E#16 0).adsr[(0 : Voice)]) = some 3 ∧
    enField (latched 0x008F#16 0).adsr[(0 : Voice)] = 1#1 ∧
    attackStep (aField (latched 0x008F#16 0).adsr[(0 : Voice)]) = none := by decide
theorem witness_KonInstallsTheInitialCurve_direct :
    enField (latched 0#16 0x7F#8).adsr[(0 : Voice)] = 0#1 ∧ directFlag (latched 0#16 0x7F#8).gain[(0 : Voice)] = 0#1 := by decide
theorem witness_KonInstallsTheInitialCurve_held :
    ∀ b ∈ [0xA0#8, 0xC0#8], enField (latched 0#16 b).adsr[(0 : Voice)] = 0#1 ∧
      directFlag (latched 0#16 b).gain[(0 : Voice)] = 1#1 ∧ stepS (paramField (latched 0#16 b).gain[(0 : Voice)]) = none := by
  decide
theorem witness_KonInstallsTheInitialCurve_stepped :
    ∀ p ∈ [(0x81#8, 0#2, 2048), (0xBF#8, 1#2, 1), (0xDF#8, 2#2, 1), (0xE1#8, 3#2, 2048)],
      enField (latched 0#16 p.1).adsr[(0 : Voice)] = 0#1 ∧ directFlag (latched 0#16 p.1).gain[(0 : Voice)] = 1#1 ∧
      modeField (latched 0#16 p.1).gain[(0 : Voice)] = p.2.1 ∧
      stepS (paramField (latched 0#16 p.1).gain[(0 : Voice)]) = some p.2.2 := by decide
theorem witness_KonIsTheDecodingCaseOfItsRegisters : enField State.reset.adsr[(0 : Voice)] = 0#1 := by decide
theorem witness_AdsrCasesInstallTheirCurves : attackStep 0#4 = some 2048 ∧ attackStep 14#4 = some 3 := by decide
theorem witness_GainCasesInstallTheirCurves : stepS 1#5 = some 2048 ∧ stepS 31#5 = some 1 ∧ stepS 0#5 = none := by decide
theorem witness_NoEnvelopeStartsInFadeOrSustain :
    ∃ (t : State) (e : Env), exec (.kon 0) State.reset = .next t ∧ State.reset.env[(0 : Voice)] = none ∧
      t.env[(0 : Voice)] = some e ∧ e.curve.isFirst = true := ⟨_, _, rfl, rfl, rfl, rfl⟩
theorem witness_NoEnvelopeStartsInFadeOrSustain_present :
    isKeyOn (.konLindecr 0 31#5) = true ∧ (Instr.konLindecr 0 31#5).voice? = some 0 ∧
    ∃ t, exec (.konLindecr 0 31#5) (sounding .fade 5 0 cfg0) = .next t := ⟨rfl, rfl, _, rfl⟩
theorem witness_RdenvxAnswersTheGainView :
    State.reset.env[(0 : Voice)] = none ∧
    ∀ g ∈ [(-1 : Int), 0, 2047, 2048], (sounding .fade g 0 cfg0).env[(0 : Voice)] = some ⟨.fade, g, 0, cfg0⟩ := by decide
theorem witness_OnlyKeyOnSeesTheVoiceRegisters : isKeyOn (.koff 0) = false ∧ isKeyOn .tick = false := by decide
theorem witness_KoffForcesFade :
    State.reset.env[(0 : Voice)] = none ∧
    (sounding .fade 0 0 cfg0).env[(0 : Voice)] = some ⟨.fade, 0, 0, cfg0⟩ ∧
    ∃ t, exec (.koff 0) (sounding .fade 0 0 cfg0) = .next t := ⟨rfl, rfl, _, rfl⟩
theorem witness_AdvOnMutedVoiceIsExhausted :
    State.reset.env[(0 : Voice)] = none ∧ (sounding .fade 0 0 cfg0).env[(0 : Voice)] = some ⟨.fade, 0, 0, cfg0⟩ ∧
    (sounding .fade 0 0 cfg0).muted 0 = true := by decide

/-- The statements about one ADV: a present envelope in each curve. -/
theorem witness_AdvInEachCurve :
    ∀ c ∈ [Curve.attack 1, .attack 2048, .decay 2, .sustain 1, .expDecr 2048, .linDecr 1, .linIncr 1, .bentIncr 2, .static 2047],
      (sounding c 1 0 cfg0).env[(0 : Voice)] = some ⟨c, 1, 0, cfg0⟩ := by decide
theorem witness_AdvInAttack : ∃ (s : State) (v : Voice) (e : Env) (n : Nat), s.env[v] = some e ∧ e.curve = .attack n :=
  ⟨sounding (.attack 3) 1984 2 cfg0, 0, _, 3, rfl, rfl⟩
theorem witness_AdvInDecay : ∃ (s : State) (v : Voice) (e : Env) (n : Nat), s.env[v] = some e ∧ e.curve = .decay n :=
  ⟨sounding (.decay 2) 2016 0 cfg0, 0, _, 2, rfl, rfl⟩
theorem witness_AdvInSustainAndExpDecr :
    ∃ (s s' : State) (v : Voice) (e e' : Env), s.env[v] = some e ∧ e.curve = .sustain 1 ∧ s'.env[v] = some e' ∧ e'.curve = .expDecr 1 :=
  ⟨sounding (.sustain 1) 1 0 cfg0, sounding (.expDecr 1) 1 0 cfg0, 0, _, _, rfl, rfl, rfl, rfl⟩
theorem witness_AdvInLinDecr : ∃ (s : State) (v : Voice) (e : Env) (n : Nat), s.env[v] = some e ∧ e.curve = .linDecr n :=
  ⟨sounding (.linDecr 1) 32 0 cfg0, 0, _, 1, rfl, rfl⟩
theorem witness_AdvInLinIncrAndBentIncr :
    ∃ (s s' : State) (v : Voice) (e e' : Env), s.env[v] = some e ∧ e.curve = .linIncr 1 ∧ s'.env[v] = some e' ∧
      e'.curve = .bentIncr 1 ∧ e'.gain = 1536 :=
  ⟨sounding (.linIncr 1) 1984 0 cfg0, sounding (.bentIncr 1) 1536 0 cfg0, 0, _, _, rfl, rfl, rfl, rfl, rfl⟩
theorem witness_AdvInFadeAndStatic :
    ∃ (s s' s'' : State) (v : Voice) (e e' e'' : Env), s.env[v] = some e ∧ e.curve = .fade ∧ 0 < e.gain ∧
      s'.env[v] = some e' ∧ e'.curve = .fade ∧ e'.gain ≤ 0 ∧ s''.env[v] = some e'' ∧ e''.curve = .static 2047 :=
  ⟨sounding .fade 1 0 cfg0, sounding .fade 0 0 cfg0, sounding (.static 2047) 2047 0 cfg0, 0, _, _, _,
    rfl, rfl, by decide, rfl, rfl, by decide, rfl, rfl⟩
theorem witness_EnteringStaticSetsTheGain :
    ∃ t, (∀ l, Curve.sustain 1 ≠ .static l) ∧ exec (.adv 0) (sounding (.sustain 1) 1 0 cfg0) = .next t ∧
      t.env[(0 : Voice)] = some ⟨.static 0, 0, 0, cfg0⟩ := ⟨_, (fun _ h => nomatch h), rfl, rfl⟩
theorem witness_StepCountLaws :
    ∀ p ∈ [(Curve.attack 1, (0 : Int)), (.linIncr 2048, 0), (.bentIncr 1, 0), (.linDecr 1, 2016), (.expDecr 2048, 2016), (.fade, 1)],
      (sounding p.1 p.2 0 cfg0).env[(0 : Voice)] = some ⟨p.1, p.2, 0, cfg0⟩ := by decide
theorem cfg0_inv : CfgInv cfg0 := ⟨0, 0, 0, rfl⟩
/-- An envelope that meets the invariants in each kind of curve. -/
theorem witness_GainBoundsAndMonotonicity :
    EnvInv ⟨.decay 2, 2016, 1, cfg0⟩ ∧ EnvInv ⟨.decay 2, 1, 0, cfg0⟩ ∧ EnvInv ⟨.attack 1, 1984, 0, cfg0⟩ ∧
    EnvInv ⟨.fade, 1, 0, cfg0⟩ ∧ EnvInv ⟨.static 2047, 2047, 0, cfg0⟩ ∧
    EnvInv ⟨.expDecr 1, 1, 0, cfg0⟩ :=
  ⟨⟨cfg0_inv, by decide⟩, ⟨cfg0_inv, by decide⟩, ⟨cfg0_inv, by decide⟩, ⟨cfg0_inv, by decide⟩, ⟨cfg0_inv, by decide⟩, ⟨cfg0_inv, by decide⟩⟩
theorem witness_CurvesFollowTheTransitionGraph :
    (∃ t, exec (.kon 0) State.reset = .next t) ∧ (∃ t, exec .tick (sounding (.decay 2) 2016 1 cfg0) = .next t) :=
  ⟨⟨_, rfl⟩, _, rfl⟩
theorem witness_CurvesFollowTheTransitionGraph_step :
    (issued .producer [tickIssue] [] (sounding (.decay 2) 2016 1 cfg0)).resetDue = false ∧
    ∃ t, step (issued .producer [tickIssue] [] (sounding (.decay 2) 2016 1 cfg0)) = .next t := ⟨rfl, _, rfl⟩
theorem witness_VoicesAreIndependent :
    (∃ t t', exec (.adv 0) (sounding .fade 5 0 cfg0) = .next t ∧
      exec (.adv 0) { sounding .fade 5 0 cfg0 with mvolL := 1#8 } = .next t') := ⟨_, _, rfl, rfl⟩
theorem witness_TickMixesTheVoicesInOrder : mixing.closed = false ∧ mixing.pkt.length < mixing.params.packetFrames := by decide
theorem witness_VoiceTermIsScaledAndBounded :
    (0 : Int) ≤ 2047 ∧ Config.Params.default.mixEnvShift = 11 ∧ Config.Params.default.mixVolShift = 7 := by decide
theorem witness_TickIsRefusedOrHeldWhenNotEnabled :
    { State.reset with closed := true }.closed = true ∧ { small 2 1 48000 with pkt := packet2 }.closed = false ∧
    { small 2 1 48000 with pkt := packet2 }.params.packetFrames ≤ { small 2 1 48000 with pkt := packet2 }.pkt.length := by decide
theorem witness_SilentTickWritesTheZeroFrame :
    State.reset.closed = false ∧ State.reset.pkt.length < State.reset.params.packetFrames ∧
    ∀ v : Voice, State.reset.muted v = true := by decide
theorem witness_PublishMovesTheFullPacket :
    { small 2 1 48000 with pkt := packet2 }.publishEnabled = true ∧ State.reset.publishEnabled = false ∧
    ∃ t, runProducer (publishIfDue (issued .producer [tickIssue] [] State.reset)) = .next t := ⟨by decide, by decide, _, rfl⟩
theorem witness_TryReceiveTakesTheOldest :
    { small 2 2 48000 with q := [packet2, []] }.q = packet2 :: [[]] ∧ (small 2 2 48000).q = [] := ⟨rfl, rfl⟩
theorem witness_CloseIsFinal :
    ∃ t u, exec .close State.reset = .next t ∧ t.closed = true ∧ (issued .producer [] [] t).resetDue = false ∧
      step (issued .producer [] [] t) = .next u := ⟨_, _, rfl, rfl, rfl, rfl⟩
theorem witness_StallHoldsTheProducer :
    { small 2 1 48000 with pkt := packet2, q := [packet2], prodIn := [tickIssue] }.stalled = true ∧
    { small 2 1 48000 with pkt := packet2, prodIn := [tickIssue] }.publishEnabled = true ∧
    (Instr.wradsr 7 0).WellFormed ∧ Instr.wradsr 7 0 ≠ .tick := by decide
theorem witness_QueueIsFirstInFirstOut :
    (small 1 2 48000).params.Legal ∧ (issued .producer [tickIssue] [] (small 1 2 48000)).resetDue = false ∧
    ∃ t, step (issued .producer [tickIssue] [] (small 1 2 48000)) = .next t := ⟨by decide, rfl, _, rfl⟩
theorem witness_AgentsKeepToTheirOwnState :
    (∃ t, exec .close State.reset = .next t) ∧ (∃ t, exec (.pull 1) (small 2 2 32000) = .next t) := ⟨⟨_, rfl⟩, _, rfl⟩
/-- Each kind of turn, a part in the middle of a PULL among them. -/
theorem witness_AgentsKeepToTheirOwnState_turns :
    (∃ t, takeTurn .producer (issued .producer [tickIssue] [] State.reset) = .next t) ∧
    (∃ t, takeTurn .publish { small 2 1 48000 with pkt := packet2 } = .next t) ∧
    (∃ t, takeTurn .consumer (issued .consumer [] [0xB0000001#32] (small 2 2 32000)) = .next t) ∧
    (∃ t, takeTurn .consumerPart { small 2 2 32000 with q := [packet2], pulling := some ⟨1, .source 1, []⟩ } = .next t) :=
  ⟨⟨_, rfl⟩, ⟨_, rfl⟩, ⟨_, rfl⟩, _, rfl⟩
theorem witness_ParametersNeverChange : ∃ t, step (issued (.reset Draw.zero) [] [] (small 2 2 8000)) = .next t := ⟨_, rfl⟩

/-- The consumer inside a packet, at its end with one queued, closed and drained, underrun, and before any packet. -/
theorem witness_SrcNextBranches :
    { small 2 2 32000 with curPkt := some packet2, curIdx := 1 }.curIdx < 2 ∧ packet2[1]? = some ⟨16384, 0x8000⟩ ∧
    (∀ p, { small 2 2 32000 with curPkt := some packet2, curIdx := 2, q := [packet2] }.curPkt = some p → 2 ≤ 2) ∧
    { small 2 2 32000 with closed := true }.q = [] ∧ { small 2 2 32000 with closed := true }.closed = true ∧
    { small 2 2 32000 with curPkt := some packet2, curIdx := 2 }.curPkt ≠ none ∧ (small 2 2 32000).curPkt = none := by
  refine ⟨by decide, by decide, fun _ _ => by decide, by decide, by decide, by decide, by decide⟩
/-- 2^64 times the largest finite number below 2^64: under the threshold, and near it. -/
theorem witness_ProductIsRoundedToNearestEven :
    F32Finite 0x5F800000#32 ∧ F32Finite 0x5F7FFFFF#32 ∧
    |f32Value 0x5F800000#32 * f32Value 0x5F7FFFFF#32| < 2 ^ 128 - 2 ^ 103 ∧ F32Finite 0x7F7FFFFF#32 := by
  have h1 : f32Value 0x5F800000#32 = 2 ^ 64 := by
    have a : f32Sig 0x5F800000#32 = 8388608 := by decide
    have b : f32Scale 0x5F800000#32 = 41 := by decide
    have c : f32Sign 0x5F800000#32 = 0#1 := by decide
    simp only [f32Value, a, b, c]; norm_num
  have h2 : f32Value 0x5F7FFFFF#32 = 16777215 * 2 ^ 40 := by
    have a : f32Sig 0x5F7FFFFF#32 = 16777215 := by decide
    have b : f32Scale 0x5F7FFFFF#32 = 40 := by decide
    have c : f32Sign 0x5F7FFFFF#32 = 0#1 := by decide
    simp only [f32Value, a, b, c]; norm_num
  refine ⟨by decide, by decide, ?_, by decide⟩
  rw [h1, h2]; norm_num
/-- A tie: half of the smallest subnormal lies midway between it and zero. -/
theorem witness_ProductIsRoundedToNearestEven_tie :
    fmul32 0x00000001#32 0x3F000000#32 = 0x00000000#32 ∧
    |f32Value 0x00000000#32 - f32Value 0x00000001#32 * f32Value 0x3F000000#32| =
      |f32Value 0x00000001#32 - f32Value 0x00000001#32 * f32Value 0x3F000000#32| ∧
    f32Value 0x00000001#32 ≠ f32Value 0x00000000#32 := by
  have h0 : f32Value 0x00000000#32 = 0 := by
    have : f32Sig 0x00000000#32 = 0 := by decide
    simp [f32Value, this]
  have h1 : f32Value 0x00000001#32 = (2 : ℚ) ^ (-149 : Int) := by
    have a : f32Sig 0x00000001#32 = 1 := by decide
    have b : f32Scale 0x00000001#32 = -149 := by decide
    have c : f32Sign 0x00000001#32 = 0#1 := by decide
    simp [f32Value, a, b, c]
  have h2 : f32Value 0x3F000000#32 = 1 / 2 := by
    have a : f32Sig 0x3F000000#32 = 8388608 := by decide
    have b : f32Scale 0x3F000000#32 = -24 := by decide
    have c : f32Sign 0x3F000000#32 = 0#1 := by decide
    simp only [f32Value, a, b, c]; norm_num
  refine ⟨by decide, ?_, ?_⟩ <;> rw [h0, h1] <;> (try rw [h2]) <;> norm_num
theorem witness_RegisterWordDecodesByFirstRow : (7 : Nat) < 8 := by decide
theorem witness_ExpDeltaSteps : (1 : Int) ≤ 1 ∧ (1 : Int) ≤ 2048 ∧ (2048 : Int) ≤ 2048 := by decide
theorem witness_DampingDecaysWithoutReachingZero :
    F32Finite 0x00000001#32 ∧ f32IsZero 0x00000001#32 = false ∧ F32Finite 0x7F7FFFFF#32 ∧
    |f32Value 0x00000001#32| ≤ 50 * (2 : ℚ) ^ (-149 : Int) ∧ 50 * (2 : ℚ) ^ (-149 : Int) < |f32Value 0x3F000000#32| := by
  have h1 : f32Value 0x00000001#32 = (2 : ℚ) ^ (-149 : Int) := by
    have a : f32Sig 0x00000001#32 = 1 := by decide
    have b : f32Scale 0x00000001#32 = -149 := by decide
    have c : f32Sign 0x00000001#32 = 0#1 := by decide
    simp [f32Value, a, b, c]
  have h2 : f32Value 0x3F000000#32 = 1 / 2 := by
    have a : f32Sig 0x3F000000#32 = 8388608 := by decide
    have b : f32Scale 0x3F000000#32 = -24 := by decide
    have c : f32Sign 0x3F000000#32 = 0#1 := by decide
    simp only [f32Value, a, b, c]; norm_num
  refine ⟨by decide, by decide, by decide, ?_, ?_⟩
  · rw [h1]; norm_num
  · rw [h2]; norm_num
/-- The consumer after its last packet, queue empty and open. -/
def drained : State := { small 2 2 32000 with curPkt := some packet2, curIdx := 2, lastFrame := ⟨0x3F000000#32, 0xBF800000#32⟩ }
theorem witness_UnderrunDampsThenPlaysTheNewPacket :
    drained.closed = false ∧ drained.q = [] ∧ drained.curPkt ≠ none ∧ drained.params.packetFrames ≤ drained.curIdx := by decide
theorem witness_ConvertAdvancesThenEvaluates :
    1 ≤ State.reset.ring.length ∧ State.reset.phaseNum < State.reset.params.hostRate := by decide
theorem witness_ConvertPullCountLaw :
    ∀ r ∈ [1, 8000, 22050, 32000, 44100], (small 2 2 r).phaseNum = 0 ∧ 1 ≤ (small 2 2 r).params.hostRate ∧
      (small 2 2 r).params.hostRate = r := by decide
theorem witness_PullAlwaysCompletes :
    (2#16).toNat + (3#16).toNat < 65536 ∧
    ∃ t u, exec (.pull 2) (small 2 2 32000) = .next t ∧ exec (.pull 3) t = .next u := ⟨by decide, _, _, rfl, rfl⟩
theorem witness_PullInPartsIsPullWhole :
    (issued .consumerPart [] [0xB0000002#32] State.reset).pulling = none ∧
    (issued .consumerPart [] [0xB0000002#32] State.reset).consIn = [0xB0000002#32] ∧
    decode (.cmd 0xB0000002#32) = .ok (.pull 2) := by decide
theorem witness_StepRunsTheProducersCommand :
    (issued .producer [tickIssue] [] State.reset).prodIn = [⟨.cmd 0x90000000#32, Vector.replicate 8 0#16⟩] ∧
    decode (.cmd 0x90000000#32) = .ok .tick ∧ Instr.tick.agent = .producer := by decide
theorem witness_OperationsStopOnlyAsListed :
    decode (.cmd 0xB0000001#32) = .ok (.pull 1) ∧ (Instr.pull 1).agent = .consumer ∧
    (issued .consumer [] [0x90000000#32] State.reset).pulling = none ∧ Instr.tick.agent = .producer := by decide
theorem witness_RefusedCommandLeavesTheBlockReady :
    (issued .producer [⟨.gain8 8 0#8, Vector.replicate 8 0#16⟩] [] State.reset).prodIn =
      [⟨.gain8 8 0#8, Vector.replicate 8 0#16⟩] ∧
    decode (.gain8 8 0#8) = .error .voiceRange ∧
    (issued .producer [tickIssue] [] { State.reset with closed := true }).prodIn =
      [⟨.cmd 0x90000000#32, Vector.replicate 8 0#16⟩] ∧
    (issued .producer [tickIssue] [] { State.reset with closed := true }).closed = true ∧
    (issued .consumer [] [0#32] State.reset).pulling = none ∧ decode (.cmd 0#32) = .error .badCommand := by decide
theorem witness_StepRunsTheConsumersCommand :
    (issued .consumer [] [0xB0000002#32] State.reset).pulling = none ∧
    (issued .consumer [] [0xB0000002#32] State.reset).consIn = [0xB0000002#32] ∧
    decode (.cmd 0xB0000002#32) = .ok (.pull 2) ∧ (Instr.pull 2).agent = .consumer := by decide
theorem witness_ResetIsTheOnlyWayBack :
    ∃ t, (issued .consumer [] [] { sounding .fade 5 0 cfg0 with closed := true }).resetDue = false ∧
      step (issued .consumer [] [] { sounding .fade 5 0 cfg0 with closed := true }) = .next t ∧
      (sounding .fade 5 0 cfg0).env[(0 : Voice)] ≠ none := ⟨_, rfl, rfl, by decide⟩
theorem witness_AfterResetTheBlockIsSilent : Config.Params.default.Legal ∧ (small 1 4 1).params.Legal := by decide
/-- An unfed state whose phase is the last, also when closed; and one in which a PULL in parts has a step to make. -/
theorem witness_AfterResetTheBlockIsSilent_pull :
    let u := { small 2 1 48000 with phaseNum := 47999, closed := true }
    u.params.Legal ∧ u.Unfed ∧ u.phaseNum < u.params.hostRate := ⟨by decide, ⟨rfl, rfl, rfl⟩, by decide⟩
theorem witness_AfterResetTheBlockIsSilent_step :
    let u := issued .consumerPart [] [] { small 2 1 48000 with pulling := some ⟨1, .readClosed 0, []⟩ }
    u.params.Legal ∧ u.Unfed ∧ ∃ t, step u = .next t ∧ t.q = [] := ⟨by decide, ⟨rfl, rfl, rfl⟩, _, rfl, rfl⟩
theorem witness_ResetMeetsTheInvariant : Config.Params.default.Legal ∧ (small 1 1 1).params.Legal := by decide

/-- A state after reset with a turn to take meets the invariant. -/
theorem issued_inv : (issued .producer [tickIssue] [] (small 2 2 32000)).Inv where
  params := by decide
  env := fun v e h => by
    have h : (Vector.replicate 8 (none : Option Env))[v] = some e := h
    simp at h
  pkt := by decide
  pktClosed := by decide
  qLength := by decide
  qPackets := fun _ h => nomatch h
  curPkt := fun _ h => nomatch h
  curIdx := by decide
  ring := by decide
  phase := by decide
  envxOut := by decide
  bufferEven := by decide
  pulling := fun _ h => nomatch h
theorem witness_StepKeepsTheInvariant :
    (issued .producer [tickIssue] [] (small 2 2 32000)).Inv ∧
    ∃ t, step (issued .producer [tickIssue] [] (small 2 2 32000)) = .next t := ⟨issued_inv, _, rfl⟩
theorem witness_StepKeepsTheFramesFinite :
    (issued .consumer [] [0xB0000002#32] (small 2 2 32000)).FloatsFinite ∧
    ∃ t, step (issued .consumer [] [0xB0000002#32] (small 2 2 32000)) = .next t :=
  ⟨⟨by decide, fun f hf => by
    have hf : f ∈ List.replicate 2 Frame32.zero := hf
    rw [List.eq_of_mem_replicate hf]; decide⟩, _, rfl⟩

end Sys2Proof.Tests
end

section
/-! PROOFS. Who owns what (R38, R39, R41): reset, the parts of a PULL, what an operation and a turn of one agent leave as it
was and do not read. Settles O55, O41 and O40. -/
namespace Sys2Proof.Machine

open Sys2Proof

/-! ### Reset -/

/-- An absent envelope shows 0 (R32). -/
theorem State.envx_absent {s : State} {v : Voice} (h : s.env[v] = none) : s.envx v = 0#8 := by
  rw [State.envx, h]; rfl

/-- After reset every envelope is absent (R41). -/
theorem resetWith_env (p : Config.Params) (d : Draw) (v : Voice) : (State.resetWith p d).env[v] = none :=
  Vector.getElem_replicate v.isLt

/-- Settles O55: the envelopes and the ring are constant vectors, and the rest of R41's table is what reset writes. -/
theorem resetLeavesTheTableOfR41 : Obligations.ResetLeavesTheTableOfR41 := by
  intro p d
  have henv := resetWith_env p d
  exact ⟨fun v => ⟨henv v, State.envx_absent (henv v), rfl, rfl⟩, rfl, rfl, rfl, rfl, rfl, rfl, rfl, rfl,
    List.length_replicate, fun _ hf => List.eq_of_mem_replicate hf, rfl, rfl⟩

/-! ### The parts of a PULL -/

/-- The first half of SRC_NEXT: its frame, and the queue loses at most its head (R200). -/
theorem srcTry_frame (s : State) : (srcTry s).2 = s.withSource (srcTry s).2 ∧ ∃ n, (srcTry s).2.q = s.q.drop n := by
  rcases srcTry_cases s with ⟨p, _, _, h⟩ | ⟨p, rest, _, hq, h⟩ | ⟨_, _, h⟩ <;> rw [h]
  · exact ⟨rfl, 0, rfl⟩
  · exact ⟨rfl, 1, by rw [hq]; rfl⟩
  · exact ⟨rfl, 0, rfl⟩

/-- A part of a PULL that runs the first half of SRC_NEXT: the frame goes into the ring, or the read of `closed` is next. -/
theorem pullPart_source (left k : Nat) (out : List F32) (s : State) :
    pullPart ⟨left, .source (k + 1), out⟩ s =
      (srcTry s).1.elim { (srcTry s).2 with pulling := some ⟨left, .readClosed k, out⟩ }
        fun f => { pushRing f (srcTry s).2 with pulling := some ⟨left, .source k, out⟩ } := by
  simp only [pullPart]
  rcases srcTry s with ⟨_ | f, t⟩ <;> rfl

/-- A part of a PULL: its frame, and the queue loses packets at its head only (R70, R206). -/
theorem pullPart_frame (p : Pulling) (s : State) :
    (∃ pulling buffer, pullPart p s = { s.withSource (pullPart p s) with pulling := pulling, buffer := buffer }) ∧
      ∃ n, (pullPart p s).q = s.q.drop n := by
  obtain ⟨left, stage, out⟩ := p
  cases stage with
  | idle => cases left <;> exact ⟨⟨_, _, rfl⟩, 0, rfl⟩
  | source k =>
    cases k with
    | zero => exact ⟨⟨_, _, rfl⟩, 0, rfl⟩
    | succ k =>
      obtain ⟨hs, n, hq⟩ := srcTry_frame s
      rw [pullPart_source]
      cases (srcTry s).1 with
      | none =>
        have h := congrArg (fun t : State => { t with pulling := some ⟨left, .readClosed k, out⟩ }) hs
        exact ⟨⟨_, _, h⟩, n, hq⟩
      | some f =>
        have h := congrArg (fun t => { pushRing f t with pulling := some ⟨left, .source k, out⟩ }) hs
        exact ⟨⟨_, _, h⟩, n, hq⟩
  | readClosed k =>
    obtain ⟨f, hf⟩ := underrun_frame s
    simp only [pullPart, hf]
    exact ⟨⟨_, _, rfl⟩, 0, rfl⟩

/-! ### The turns, case by case -/

theorem runProducer_nil {s : State} (h : s.prodIn = []) : runProducer s = .next s := by
  unfold runProducer; rw [h]

theorem runProducer_cons {s : State} {i : Issue} {rest : List Issue} (h : s.prodIn = i :: rest) :
    runProducer s =
      afterCommand { s with prodIn := rest } (runFor .producer i.code { s with prodIn := rest, brrIn := i.brr }) := by
  unfold runProducer; rw [h]

/-- Inside a PULL both kinds of consumer turn run its next part. -/
theorem takeTurn_pulling {k : Turn} (hk : k = .consumer ∨ k = .consumerPart) {s : State} {p : Pulling}
    (hp : s.pulling = some p) : takeTurn k s = .next (pullPart p s) := by
  rcases hk with rfl | rfl <;> simp only [takeTurn, consumerTurn, consumerPartTurn, hp]

theorem takeTurn_noCommand {k : Turn} (hk : k = .consumer ∨ k = .consumerPart) {s : State} (hp : s.pulling = none)
    (hc : s.consIn = []) : takeTurn k s = .next s := by
  rcases hk with rfl | rfl <;> simp only [takeTurn, consumerTurn, consumerPartTurn, hp, hc]

theorem takeTurn_consumer {s : State} {w : BitVec 32} {rest : List (BitVec 32)} (hp : s.pulling = none)
    (hc : s.consIn = w :: rest) : takeTurn .consumer s =
      afterCommand { s with consIn := rest } (runFor .consumer (.cmd w) { s with consIn := rest }) := by
  unfold takeTurn consumerTurn; rw [hp, hc]

theorem takeTurn_consumerPart {s : State} {w : BitVec 32} {rest : List (BitVec 32)} (hp : s.pulling = none)
    (hc : s.consIn = w :: rest) : takeTurn .consumerPart s =
      afterCommand { s with consIn := rest } (startFor (.cmd w) { s with consIn := rest }) := by
  unfold takeTurn consumerPartTurn; rw [hp, hc]

/-! ### What a turn of one agent leaves as it was -/

/-- What the producer does not write: what the consumer owns, its port, its PULL in progress, its result, and the parameters
(R38, R39). -/
def State.outsideProducer (s : State) :
    (Option Packet × Nat × Frame32 × List Frame32 × Nat) × Option Pulling × List F32 × List (BitVec 32) × Config.Params :=
  (s.consumerOwned, s.pulling, s.buffer, s.consIn, s.params)

/-- What the consumer does not write: what the producer owns, `closed`, its port, its results, and the parameters (R38, R39). -/
def State.outsideConsumer (s : State) :
    (Vector (BitVec 16) 8 × Vector (BitVec 8) 8 × Vector (Option Env) 8 × BitVec 8 × BitVec 8 × Packet) ×
      Bool × List Issue × BitVec 8 × BitVec 17 × Config.Params :=
  (s.producerOwned, s.closed, s.prodIn, s.envxOut, s.advOut, s.params)

theorem State.outsideProducer_eq_iff {s t : State} :
    t.outsideProducer = s.outsideProducer ↔
      t.consumerOwned = s.consumerOwned ∧ t.pulling = s.pulling ∧ t.buffer = s.buffer ∧ t.consIn = s.consIn ∧
        t.params = s.params := by
  simp only [State.outsideProducer, Prod.mk.injEq]

theorem State.outsideConsumer_eq_iff {s t : State} :
    t.outsideConsumer = s.outsideConsumer ↔
      t.producerOwned = s.producerOwned ∧ t.closed = s.closed ∧ t.prodIn = s.prodIn ∧ t.envxOut = s.envxOut ∧
        t.advOut = s.advOut ∧ t.params = s.params := by
  simp only [State.outsideConsumer, Prod.mk.injEq]

/-- An operation of the producer does not touch the queue, and only CLOSE writes `closed` (R39, R187). -/
theorem exec_producer_frame {i : Instr} {s t : State} (ha : i.agent = .producer) (h : exec i s = .next t) :
    t.outsideProducer = s.outsideProducer ∧ t.q = s.q ∧ (i ≠ .close → t.closed = s.closed) := by
  cases exec_effect h with
  | tick => rw [tickEffect_eq]; exact ⟨rfl, rfl, fun _ => rfl⟩
  | close => exact ⟨rfl, rfl, fun hi => absurd rfl hi⟩
  | pull => cases ha
  | setAdsr | setGain | setMvolL | setMvolR | view | install | keyOff | advance | hold =>
    exact ⟨rfl, rfl, fun _ => rfl⟩

/-- PULL, whole: its frame, and the queue loses packets at its head only (R39, R70). -/
theorem execPull_frame {n : BitVec 16} {s t : State} (h : execPull n s = .next t) :
    t.outsideConsumer = s.outsideConsumer ∧ ∃ k, t.q = s.q.drop k := by
  obtain ⟨k, hk, _⟩ := pullFrames_queue n.toNat s
  have hout := congrArg State.outsideConsumer (pullFrames_frame n.toNat s)
  cases h
  exact ⟨hout, k, hk⟩

theorem publishIfDue_frame (s : State) :
    (publishIfDue s).outsideProducer = s.outsideProducer ∧ ∃ added, (publishIfDue s).q = s.q ++ added := by
  rcases publishIfDue_cases s with ⟨_, h⟩ | ⟨_, h⟩ <;> rw [h]
  · exact ⟨rfl, [s.pkt], rfl⟩
  · exact ⟨rfl, [], (List.append_nil _).symm⟩

/-- A producer turn is PUBLISH where due, at most one command, which leaves the queue as it was, and PUBLISH where due (R185). -/
theorem producer_next_queue {s t : State} (h : takeTurn .producer s = .next t) :
    ∃ u, u.outsideProducer = s.outsideProducer ∧ u.q = (publishIfDue s).q ∧ t = publishIfDue u := by
  obtain ⟨hs, _⟩ := publishIfDue_frame s
  rcases producer_next h with ⟨_, rfl⟩ | ⟨c, b, rest, i, u, _, _, ha, he, rfl⟩ | ⟨c, b, rest, x, _, rfl⟩
  · exact ⟨publishIfDue s, hs, rfl, rfl⟩
  · obtain ⟨hu, hq, _⟩ := exec_producer_frame ha he
    exact ⟨u, hu.trans hs, hq, rfl⟩
  · exact ⟨recordRefusal x { publishIfDue s with prodIn := rest }, hs, rfl, rfl⟩

/-- A turn of the producer writes nothing of the consumer's and only adds to the queue's tail (R39). -/
theorem producerTurn_frame {k : Turn} (hk : k = .producer ∨ k = .publish) {s t : State} (h : takeTurn k s = .next t) :
    t.outsideProducer = s.outsideProducer ∧ ∃ added, t.q = s.q ++ added := by
  rcases hk with rfl | rfl
  · obtain ⟨u, hu, huq, rfl⟩ := producer_next_queue h
    obtain ⟨_, a, ha⟩ := publishIfDue_frame s
    obtain ⟨ht, b, hb⟩ := publishIfDue_frame u
    exact ⟨ht.trans hu, a ++ b, by rw [hb, huq, ha, List.append_assoc]⟩
  · cases h
    exact publishIfDue_frame s

/-- A turn of the consumer writes nothing of the producer's and only takes from the queue's head (R39). -/
theorem consumerTurn_frame {k : Turn} (hk : k = .consumer ∨ k = .consumerPart) {s t : State} (h : takeTurn k s = .next t) :
    t.outsideConsumer = s.outsideConsumer ∧ ∃ n, t.q = s.q.drop n := by
  rcases consumer_next hk h with
    ⟨p, _, rfl⟩ | ⟨_, _, rfl⟩ | ⟨w, rest, n, _, _, _, ⟨_, he⟩ | ⟨_, rfl⟩⟩ | ⟨w, rest, x, _, _, rfl⟩
  · obtain ⟨⟨_, _, hp⟩, hq⟩ := pullPart_frame p s
    have hout := congrArg State.outsideConsumer hp
    exact ⟨hout, hq⟩
  · exact ⟨rfl, 0, rfl⟩
  · have hpull := execPull_frame he
    exact hpull
  · exact ⟨rfl, 0, rfl⟩
  · exact ⟨rfl, 0, rfl⟩

/-- Settles O41: both agents' turns keep the parameters, and reset takes them over. -/
theorem parametersNeverChange : Obligations.ParametersNeverChange := by
  intro s t h
  rcases step_cases h with ⟨_, rfl⟩ | ⟨ts, _, h⟩ | ⟨ts, _, rfl⟩ | ⟨k, ts, _, hk, h⟩ | ⟨d, ts, _, rfl⟩
  · rfl
  · obtain ⟨_, _, _, _, hp⟩ := State.outsideProducer_eq_iff.mp (producerTurn_frame (.inl rfl) h).1
    exact hp
  · obtain ⟨_, _, _, _, hp⟩ := State.outsideProducer_eq_iff.mp (publishIfDue_frame { s with turns := ts }).1
    exact hp
  · obtain ⟨_, _, _, _, _, hp⟩ := State.outsideConsumer_eq_iff.mp (consumerTurn_frame hk h).1
    exact hp
  · rfl

/-! ### What an answer does not depend on

`f` replaces a part of the state; what neither reads nor writes that part commutes with `f`. -/

section Commute

variable {f : State → State}

theorem onVoice_mapNext (v : Nat) {run run' : Voice → Result} (h : ∀ u, run' u = mapNext f (run u)) :
    onVoice v run' = mapNext f (onVoice v run) := by
  unfold onVoice
  split
  · exact h _
  · rfl

theorem installEnv_mapNext (hf : ∀ v e s, State.setEnv (f s) v e = f (s.setEnv v e)) (v : Voice) (c : Curve) (cfg : EnvCfg)
    (s : State) : installEnv v c cfg (f s) = mapNext f (installEnv v c cfg s) := by
  rw [installEnv_eq, installEnv_eq]
  cases initialGain c with
  | some g => exact congrArg Host.Outcome.next (hf v _ s)
  | none => rfl

theorem afterCommand_mapNext (hf : ∀ x s, recordRefusal x (f s) = f (recordRefusal x s)) (s : State) (r : Result) :
    afterCommand (f s) (mapNext f r) = mapNext f (afterCommand s r) := by
  cases r with
  | next => rfl
  | fault => rfl
  | refused x =>
    cases x with
    | notModelled | wrongAgent => rfl
    | badCommand | voiceRange | tickAfterClose => exact congrArg Host.Outcome.next (hf _ s)

theorem runFor_mapNext {a : Agent} {s : State} (hf : ∀ i, i.agent = a → exec i (f s) = mapNext f (exec i s)) (c : Code) :
    runFor a c (f s) = mapNext f (runFor a c s) := by
  unfold runFor
  split
  · split
    · exact hf _ ‹_›
    · rfl
  · rfl

theorem startFor_mapNext {s : State} (hf : ∀ n, startPull n (f s) = f (startPull n s)) (c : Code) :
    startFor c (f s) = mapNext f (startFor c s) := by
  unfold startFor
  split
  · exact congrArg Host.Outcome.next (hf _)
  · rfl
  · rfl

theorem thenPublish_mapNext (hf : ∀ s, publishIfDue (f s) = f (publishIfDue s)) (r : Result) :
    thenPublish (mapNext f r) = mapNext f (thenPublish r) := by
  cases r with
  | next s => exact congrArg Host.Outcome.next (hf s)
  | fault => rfl
  | refused => rfl

end Commute

/-! ### The producer does not read what the consumer owns -/

theorem tickEffect_withConsumerOwned (s u : State) :
    tickEffect (s.withConsumerOwned u) = (tickEffect s).withConsumerOwned u := by
  rw [tickEffect_eq, tickEffect_eq]; rfl

theorem execTick_withConsumerOwned (s u : State) :
    execTick (s.withConsumerOwned u) = mapNext (·.withConsumerOwned u) (execTick s) := by
  unfold execTick
  rw [tickEffect_withConsumerOwned, apply_ite (mapNext _), apply_ite (mapNext _)]
  rfl

theorem exec_withConsumerOwned {i : Instr} (ha : i.agent = .producer) (s u : State) :
    exec i (s.withConsumerOwned u) = mapNext (·.withConsumerOwned u) (exec i s) := by
  have hinstall := installEnv_mapNext (f := (·.withConsumerOwned u)) fun _ _ _ => rfl
  cases i with
  | wradsr v | wrgain v | koff v | rdenvx v | adv v =>
    simp only [exec, execWradsr, execWrgain, execKoff, execRdenvx, execAdv]
    exact onVoice_mapNext v fun _ => rfl
  | wrmvoll | wrmvolr | close => rfl
  | tick => exact execTick_withConsumerOwned s u
  | pull => cases ha
  | kon v | konDecay v | konAttack v | konGainsel v | konDirect v | konHoldmax v | konHoldzero v | konLindecr v
  | konExpdecr v | konLinincr v | konBentincr v =>
    simp only [exec, execKon, execKonDecay, execKonAttack, execKonGainsel, execKonDirect, execKonHoldmax, execKonHoldzero,
      execKonLindecr, execKonExpdecr, execKonLinincr, execKonBentincr]
    exact onVoice_mapNext v fun x => hinstall x _ _ s

theorem publishIfDue_withConsumerOwned (s u : State) :
    publishIfDue (s.withConsumerOwned u) = (publishIfDue s).withConsumerOwned u := by
  unfold publishIfDue
  rw [apply_ite (State.withConsumerOwned · u)]
  rfl

theorem runProducer_withConsumerOwned (s u : State) :
    runProducer (s.withConsumerOwned u) = mapNext (·.withConsumerOwned u) (runProducer s) := by
  cases hp : s.prodIn with
  | nil => rw [runProducer_nil hp, runProducer_nil (s := s.withConsumerOwned u) hp]; rfl
  | cons i rest =>
    have hrun := runFor_mapNext (f := (·.withConsumerOwned u)) (a := .producer)
      (s := { s with prodIn := rest, brrIn := i.brr }) (fun _ ha => exec_withConsumerOwned ha _ u) i.code
    have hafter := afterCommand_mapNext (f := (·.withConsumerOwned u)) fun _ _ => rfl
    rw [runProducer_cons hp, runProducer_cons (s := s.withConsumerOwned u) hp, ← hafter, ← hrun]
    rfl

theorem producerTurn_withConsumerOwned {k : Turn} (hk : k = .producer ∨ k = .publish) (s u : State) :
    takeTurn k (s.withConsumerOwned u) = mapNext (·.withConsumerOwned u) (takeTurn k s) := by
  have hpub := (publishIfDue_withConsumerOwned · u)
  rcases hk with rfl | rfl
  · change thenPublish (runProducer (publishIfDue (s.withConsumerOwned u))) = _
    rw [hpub, runProducer_withConsumerOwned]
    exact thenPublish_mapNext hpub _
  · exact congrArg Host.Outcome.next (hpub s)

/-! ### The consumer does not read what the producer owns -/

theorem srcTry_withProducerOwned (s u : State) :
    srcTry (s.withProducerOwned u) = ((srcTry s).1, (srcTry s).2.withProducerOwned u) := by
  rcases srcTry_cases s with ⟨p, hc, hu, h⟩ | ⟨p, rest, hu, hq, h⟩ | ⟨hu, hq, h⟩ <;> rw [h]
  · exact srcTry_unread (s := s.withProducerOwned u) hc hu
  · exact srcTry_receive (s := s.withProducerOwned u) hu hq
  · exact srcTry_empty (s := s.withProducerOwned u) hu hq

theorem underrun_withProducerOwned (s u : State) :
    underrun (s.withProducerOwned u) = ((underrun s).1, (underrun s).2.withProducerOwned u) := by
  rcases underrun_cases s with ⟨hc, h⟩ | ⟨hc, hp, h⟩ | ⟨hc, hp, h⟩ <;> rw [h]
  · exact underrun_closed (s := s.withProducerOwned u) hc
  · exact underrun_damp (s := s.withProducerOwned u) hc hp
  · exact underrun_none (s := s.withProducerOwned u) hc hp

theorem srcNext_withProducerOwned (s u : State) :
    srcNext (s.withProducerOwned u) = ((srcNext s).1, (srcNext s).2.withProducerOwned u) := by
  unfold srcNext
  rw [srcTry_withProducerOwned]
  rcases srcTry s with ⟨_ | f, t⟩
  · exact underrun_withProducerOwned t u
  · rfl

theorem srcPush_withProducerOwned (s u : State) : srcPush (s.withProducerOwned u) = (srcPush s).withProducerOwned u := by
  unfold srcPush
  rw [srcNext_withProducerOwned]
  rfl

theorem srcTimes_withProducerOwned (u : State) :
    ∀ n s, srcTimes n (s.withProducerOwned u) = (srcTimes n s).withProducerOwned u
  | 0, _ => rfl
  | n + 1, s => by
    rw [srcTimes_succ, srcPush_withProducerOwned, srcTimes_withProducerOwned u n, srcTimes_succ]

theorem convert_withProducerOwned (s u : State) :
    convert (s.withProducerOwned u) = ((convert s).1, (convert s).2.withProducerOwned u) := by
  have ht := srcTimes_withProducerOwned u (advancePhase s).1 (advancePhase s).2
  exact congrArg (fun t => (interpolate t, t)) ht

theorem pullFrames_withProducerOwned (u : State) :
    ∀ n s, pullFrames n (s.withProducerOwned u) = ((pullFrames n s).1, (pullFrames n s).2.withProducerOwned u)
  | 0, _ => rfl
  | n + 1, s => by
    rw [pullFrames_succ, convert_withProducerOwned, pullFrames_withProducerOwned u n, pullFrames_succ]

theorem exec_withProducerOwned {i : Instr} (ha : i.agent = .consumer) (s u : State) :
    exec i (s.withProducerOwned u) = mapNext (·.withProducerOwned u) (exec i s) := by
  obtain ⟨n, rfl⟩ := agent_consumer ha
  have h := pullFrames_withProducerOwned u n.toNat s
  exact congrArg (fun r : List F32 × State => Host.Outcome.next { r.2 with buffer := r.1 }) h

theorem pullPart_withProducerOwned (p : Pulling) (s u : State) :
    pullPart p (s.withProducerOwned u) = (pullPart p s).withProducerOwned u := by
  obtain ⟨left, stage, out⟩ := p
  cases stage with
  | idle => cases left <;> rfl
  | source k =>
    cases k with
    | zero => rfl
    | succ k =>
      rw [pullPart_source, pullPart_source, srcTry_withProducerOwned]
      cases (srcTry s).1 <;> rfl
  | readClosed k =>
    simp only [pullPart, underrun_withProducerOwned]
    rfl

theorem consumerTurn_withProducerOwned {k : Turn} (hk : k = .consumer ∨ k = .consumerPart) (s u : State) :
    takeTurn k (s.withProducerOwned u) = mapNext (·.withProducerOwned u) (takeTurn k s) := by
  have hafter := afterCommand_mapNext (f := (·.withProducerOwned u)) fun _ _ => rfl
  cases hp : s.pulling with
  | some p =>
    rw [takeTurn_pulling hk hp, takeTurn_pulling (s := s.withProducerOwned u) hk hp, pullPart_withProducerOwned]
    rfl
  | none =>
    cases hc : s.consIn with
    | nil => rw [takeTurn_noCommand hk hp hc, takeTurn_noCommand (s := s.withProducerOwned u) hk hp hc]; rfl
    | cons w rest =>
      rcases hk with rfl | rfl
      · have hrun := runFor_mapNext (f := (·.withProducerOwned u)) (a := .consumer) (s := { s with consIn := rest })
          (fun _ ha => exec_withProducerOwned ha _ u) (.cmd w)
        rw [takeTurn_consumer hp hc, takeTurn_consumer (s := s.withProducerOwned u) hp hc, ← hafter, ← hrun]
        rfl
      · have hstart := startFor_mapNext (f := (·.withProducerOwned u)) (s := { s with consIn := rest }) (fun _ => rfl)
          (.cmd w)
        rw [takeTurn_consumerPart hp hc, takeTurn_consumerPart (s := s.withProducerOwned u) hp hc, ← hafter, ← hstart]
        rfl

/-! ### The statement -/

/-- Settles O40: the frames say what each agent does not write, and commuting with a change of the other agent's state says
that it does not read it. -/
theorem agentsKeepToTheirOwnState : Obligations.AgentsKeepToTheirOwnState := by
  refine ⟨fun i s t h => ⟨fun ha => ?_, fun ha => ?_⟩,
    fun i s u => ⟨fun ha => exec_withConsumerOwned ha s u, fun ha => exec_withProducerOwned ha s u⟩,
    fun k s t h => ⟨fun hk => ?_, fun hk => ?_⟩,
    fun k s u => ⟨fun hk => producerTurn_withConsumerOwned hk s u, fun hk => consumerTurn_withProducerOwned hk s u⟩,
    fun _ _ _ => rfl⟩
  · obtain ⟨hout, hq, hclosed⟩ := exec_producer_frame ha h
    obtain ⟨howned, _⟩ := State.outsideProducer_eq_iff.mp hout
    exact ⟨howned, hq, hclosed⟩
  · obtain ⟨n, rfl⟩ := agent_consumer ha
    obtain ⟨howned, hclosed, _⟩ := State.outsideConsumer_eq_iff.mp (execPull_frame h).1
    exact ⟨howned, hclosed⟩
  · obtain ⟨hout, hq⟩ := producerTurn_frame hk h
    obtain ⟨howned, hpulling, hbuffer, hconsIn, _⟩ := State.outsideProducer_eq_iff.mp hout
    exact ⟨howned, hpulling, hbuffer, hconsIn, hq⟩
  · obtain ⟨hout, hq⟩ := consumerTurn_frame hk h
    obtain ⟨howned, hclosed, hprodIn, henvx, hadv, _⟩ := State.outsideConsumer_eq_iff.mp hout
    exact ⟨howned, hclosed, hprodIn, henvx, hadv, hq⟩

end Sys2Proof.Machine
end

section
/-! PROOFS. The register words (R97): the ADSR word and the gain byte hold exactly their fields, packing and extraction undo
each other, and at parameter 0 two gain bytes stand for one curve. Settles O7. -/
namespace Sys2Proof

/-! ### The fields of the gain byte as numbers -/

theorem directFlag_toNat (b : BitVec 8) : (directFlag b).toNat = b.toNat / 2 ^ 7 % 2 ^ 1 := extract_toNat_eq _ _ _
theorem levelField_toNat (b : BitVec 8) : (levelField b).toNat = b.toNat / 2 ^ 0 % 2 ^ 7 := extract_toNat_eq _ _ _
theorem modeField_toNat (b : BitVec 8) : (modeField b).toNat = b.toNat / 2 ^ 5 % 2 ^ 2 := extract_toNat_eq _ _ _
theorem paramField_toNat (b : BitVec 8) : (paramField b).toNat = b.toNat / 2 ^ 0 % 2 ^ 5 := extract_toNat_eq _ _ _

/-! ### The ADSR word -/

/-- The five fields cover the ADSR word (R82). -/
@[simp] theorem encodeAdsr_fields (w : BitVec 16) :
    encodeAdsr (slField w) (srField w) (enField w) (dField w) (aField w) = w := by
  apply BitVec.eq_of_toNat_eq
  rw [encodeAdsr_toNat, slField_toNat, srField_toNat, enField_toNat, dField_toNat, aField_toNat]
  omega

section AdsrFields
variable (sl : BitVec 3) (sr : BitVec 5) (en : BitVec 1) (d : BitVec 3) (a : BitVec 4)

@[simp] theorem slField_encodeAdsr : slField (encodeAdsr sl sr en d a) = sl := by
  apply BitVec.eq_of_toNat_eq
  rw [slField_toNat, encodeAdsr_toNat]
  omega

@[simp] theorem srField_encodeAdsr : srField (encodeAdsr sl sr en d a) = sr := by
  apply BitVec.eq_of_toNat_eq
  rw [srField_toNat, encodeAdsr_toNat]
  omega

@[simp] theorem enField_encodeAdsr : enField (encodeAdsr sl sr en d a) = en := by
  apply BitVec.eq_of_toNat_eq
  rw [enField_toNat, encodeAdsr_toNat]
  omega

@[simp] theorem dField_encodeAdsr : dField (encodeAdsr sl sr en d a) = d := by
  apply BitVec.eq_of_toNat_eq
  rw [dField_toNat, encodeAdsr_toNat]
  omega

@[simp] theorem aField_encodeAdsr : aField (encodeAdsr sl sr en d a) = a := by
  apply BitVec.eq_of_toNat_eq
  rw [aField_toNat, encodeAdsr_toNat]
  omega

end AdsrFields

/-! ### The gain byte -/

/-- The flag 0 and the level cover a direct byte (R83). -/
theorem encodeGainDirect_fields {b : BitVec 8} (h : directFlag b = 0#1) : encodeGainDirect (levelField b) = b := by
  have hflag := congrArg BitVec.toNat h
  rw [directFlag_toNat, BitVec.toNat_ofNat] at hflag
  apply BitVec.eq_of_toNat_eq
  rw [encodeGainDirect_toNat, levelField_toNat]
  omega

/-- The flag 1, the mode and the parameter cover a curve byte (R83). -/
theorem encodeGainCurve_fields {b : BitVec 8} (h : directFlag b = 1#1) :
    encodeGainCurve (modeField b) (paramField b) = b := by
  have hflag := congrArg BitVec.toNat h
  rw [directFlag_toNat, BitVec.toNat_ofNat] at hflag
  apply BitVec.eq_of_toNat_eq
  rw [encodeGainCurve_toNat, modeField_toNat, paramField_toNat]
  omega

@[simp] theorem directFlag_encodeGainDirect (l : BitVec 7) : directFlag (encodeGainDirect l) = 0#1 := by
  apply BitVec.eq_of_toNat_eq
  rw [directFlag_toNat, encodeGainDirect_toNat, BitVec.toNat_ofNat]
  omega

@[simp] theorem levelField_encodeGainDirect (l : BitVec 7) : levelField (encodeGainDirect l) = l := by
  apply BitVec.eq_of_toNat_eq
  rw [levelField_toNat, encodeGainDirect_toNat]
  omega

@[simp] theorem directFlag_encodeGainCurve (m : BitVec 2) (p : BitVec 5) : directFlag (encodeGainCurve m p) = 1#1 := by
  apply BitVec.eq_of_toNat_eq
  rw [directFlag_toNat, encodeGainCurve_toNat, BitVec.toNat_ofNat]
  omega

@[simp] theorem modeField_encodeGainCurve (m : BitVec 2) (p : BitVec 5) : modeField (encodeGainCurve m p) = m := by
  apply BitVec.eq_of_toNat_eq
  rw [modeField_toNat, encodeGainCurve_toNat]
  omega

@[simp] theorem paramField_encodeGainCurve (m : BitVec 2) (p : BitVec 5) : paramField (encodeGainCurve m p) = p := by
  apply BitVec.eq_of_toNat_eq
  rw [paramField_toNat, encodeGainCurve_toNat]
  omega

end Sys2Proof

namespace Sys2Proof.Machine

open Sys2Proof

/-! ### What a gain byte decodes to -/

@[simp] theorem decodeGain_encodeGainDirect (l : BitVec 7) : decodeGain (encodeGainDirect l) = .direct (directLevel l) := by
  simp [decodeGain]

@[simp] theorem decodeGain_encodeGainCurve (m : BitVec 2) (p : BitVec 5) :
    decodeGain (encodeGainCurve m p) = .curve m (stepS p) := by
  simp [decodeGain]

/-- A decreasing mode without a step holds the largest gain (R89). -/
theorem gainCurve_zeroParam_low {m : BitVec 2} (h : m.toNat < 2) :
    gainCurve (decodeGain (encodeGainCurve m 0#5)) = .static 2016 := by
  rw [decodeGain_encodeGainCurve, (stepS_none_iff _).mpr rfl]
  exact if_pos h

/-- An increasing mode without a step holds gain 0 (R89). -/
theorem gainCurve_zeroParam_high {m : BitVec 2} (h : 2 ≤ m.toNat) :
    gainCurve (decodeGain (encodeGainCurve m 0#5)) = .static 0 := by
  rw [decodeGain_encodeGainCurve, (stepS_none_iff _).mpr rfl]
  exact if_neg (Nat.not_lt.mpr h)

/-- The direct byte of the largest gain: level 126 times 16 (R88). -/
theorem gainCurve_0x7E : gainCurve (decodeGain 0x7E#8) = .static 2016 :=
  congrArg gainCurve (decodeGain_encodeGainDirect 0x7E#7)

/-- The direct byte of gain 0 (R88). -/
theorem gainCurve_0x00 : gainCurve (decodeGain 0x00#8) = .static 0 :=
  congrArg gainCurve (decodeGain_encodeGainDirect 0#7)

/-! ### The statement -/

/-- Settles O7: both words are read as numbers, in which each field is one digit group; at parameter 0 Table S has no step, so a
curve byte is the constant curve of a direct byte. -/
theorem registerWordsPackAndUnpack : Obligations.RegisterWordsPackAndUnpack := by
  refine ⟨fun _ _ _ _ _ => rfl, fun _ => rfl, fun _ _ => rfl, encodeAdsr_fields, fun sl sr en d a => ?_,
    fun _ => ⟨encodeGainDirect_fields, encodeGainCurve_fields⟩,
    fun l => ⟨directFlag_encodeGainDirect l, levelField_encodeGainDirect l⟩,
    fun m p => ⟨directFlag_encodeGainCurve m p, modeField_encodeGainCurve m p, paramField_encodeGainCurve m p⟩,
    fun m h => ?_, fun m h => ?_⟩
  · exact ⟨slField_encodeAdsr sl sr en d a, srField_encodeAdsr sl sr en d a, enField_encodeAdsr sl sr en d a,
      dField_encodeAdsr sl sr en d a, aField_encodeAdsr sl sr en d a⟩
  · have hstatic := gainCurve_zeroParam_low h
    exact ⟨hstatic.trans gainCurve_0x7E.symm, hstatic⟩
  · have hstatic := gainCurve_zeroParam_high h
    exact ⟨hstatic.trans gainCurve_0x00.symm, hstatic⟩

end Sys2Proof.Machine
end

section
/-! PROOFS. The register decoder (R114 to R118): each access decodes from its command word, a write latches its operand and
changes nothing else, and RDENVX answers the clamped gain view. Settles O13, O14 and O15. -/
namespace Sys2Proof

/-! ### The fields of a packed command word -/

section PackCmdFields
variable (op : BitVec 4) (v : BitVec 3) (d : BitVec 16) (b : BitVec 8)

@[simp] theorem opField_packCmd : opField (packCmd op v d) = op := by
  apply BitVec.eq_of_toNat_eq
  rw [opField_toNat, packCmd_toNat]
  omega

@[simp] theorem z1Field_packCmd : z1Field (packCmd op v d) = 0#1 := by
  apply BitVec.eq_of_toNat_eq
  rw [z1Field_toNat, packCmd_toNat, BitVec.toNat_ofNat]
  omega

@[simp] theorem voiceField_packCmd : voiceField (packCmd op v d) = v := by
  apply BitVec.eq_of_toNat_eq
  rw [voiceField_toNat, packCmd_toNat]
  omega

@[simp] theorem z2Field_packCmd : z2Field (packCmd op v d) = 0#8 := by
  apply BitVec.eq_of_toNat_eq
  rw [z2Field_toNat, packCmd_toNat, BitVec.toNat_ofNat]
  omega

@[simp] theorem dataField_packCmd : dataField (packCmd op v d) = d := by
  apply BitVec.eq_of_toNat_eq
  rw [dataField_toNat, packCmd_toNat]
  omega

@[simp] theorem byteField_packCmd : byteField (packCmd op v (0#8 ++ b)) = b := by
  apply BitVec.eq_of_toNat_eq
  rw [byteField_toNat, packCmd_toNat, byteData_toNat]
  omega

@[simp] theorem highByteField_packCmd : highByteField (packCmd op v (0#8 ++ b)) = 0#8 := by
  apply BitVec.eq_of_toNat_eq
  rw [highByteField_toNat, packCmd_toNat, byteData_toNat, BitVec.toNat_ofNat]
  omega

end PackCmdFields

/-! ### The command words of the register accesses -/

theorem decode_wradsr (v : Voice) (imm : BitVec 16) :
    decode (.cmd (packCmd 0x1#4 (BitVec.ofNat 3 v) imm)) = .ok (.wradsr v imm) := by
  simp [decode, decodeCmd]

theorem decode_wrgain (v : Voice) (imm : BitVec 8) :
    decode (.cmd (packCmd 0x2#4 (BitVec.ofNat 3 v) (0#8 ++ imm))) = .ok (.wrgain v imm) := by
  simp [decode, decodeCmd]

theorem decode_rdenvx (v : Voice) : decode (.cmd (packCmd 0x5#4 (BitVec.ofNat 3 v) 0#16)) = .ok (.rdenvx v) := by
  simp [decode, decodeCmd]

theorem decode_wrmvoll (imm : BitVec 8) : decode (.cmd (packCmd 0x6#4 0#3 (0#8 ++ imm))) = .ok (.wrmvoll imm) := by
  simp [decode, decodeCmd]

theorem decode_wrmvolr (imm : BitVec 8) : decode (.cmd (packCmd 0x7#4 0#3 (0#8 ++ imm))) = .ok (.wrmvolr imm) := by
  simp [decode, decodeCmd]

end Sys2Proof

namespace Sys2Proof.Machine

open Sys2Proof

/-! ### The register accesses on a voice that exists -/

theorem exec_wradsr (v : Voice) (imm : BitVec 16) (s : State) : exec (.wradsr v imm) s = .next (s.setAdsr v imm) := by
  simp only [exec, execWradsr, onVoice_voice]

theorem exec_wrgain (v : Voice) (imm : BitVec 8) (s : State) : exec (.wrgain v imm) s = .next (s.setGain v imm) := by
  simp only [exec, execWrgain, onVoice_voice]

theorem exec_rdenvx (v : Voice) (s : State) : exec (.rdenvx v) s = .next { s with envxOut := s.envx v } := by
  simp only [exec, execRdenvx, onVoice_voice]

/-! ### The gain view -/

/-- The view of a present envelope, as a number: the clamp keeps it within seven bits, so no bit of it is lost (R32, R93). -/
theorem envxOf_some_toNat (e : Env) : ((envxOf (some e)).toNat : Int) = min 127 (max 0 (e.gain / 16)) := by
  have hview : (envxOf (some e)).toNat = (min 127 (max 0 (e.gain / 16)) % 256).toNat := BitVec.toNat_ofInt _
  omega

/-- Bit 7 of the view is always 0 (R118). -/
theorem envxOf_toNat_le (o : Option Env) : (envxOf o).toNat ≤ 127 := by
  cases o with
  | none => exact Nat.zero_le _
  | some e =>
    have hview := envxOf_some_toNat e
    omega

theorem State.envx_present {s : State} {v : Voice} {e : Env} (h : s.env[v] = some e) :
    ((s.envx v).toNat : Int) = min 127 (max 0 (e.gain / 16)) := by
  rw [State.envx, h, envxOf_some_toNat]

/-! ### The statements -/

/-- Settles O13: the word's fields are its operands, and on a voice that exists the write is the latch of its register. -/
theorem voiceRegisterWritesOnlyLatch : Obligations.VoiceRegisterWritesOnlyLatch :=
  ⟨fun s v imm => ⟨decode_wradsr v imm, exec_wradsr v imm s⟩, fun s v imm => ⟨decode_wrgain v imm, exec_wrgain v imm s⟩⟩

/-- Settles O14: the word's byte is its operand, and the volume writes have no voice to check. -/
theorem mainVolumeWrites : Obligations.MainVolumeWrites :=
  fun _ imm => ⟨decode_wrmvoll imm, rfl, decode_wrmvolr imm, rfl⟩

/-- Settles O15: the answer is the view of the voice's slot, and the range of the gain says which bound of the clamp, if any,
it meets. -/
theorem rdenvxAnswersTheGainView : Obligations.RdenvxAnswersTheGainView := by
  intro s v
  refine ⟨decode_rdenvx v, s.envx v, exec_rdenvx v s, envxOf_toNat_le _, State.envx_absent, fun e he => ?_⟩
  have hview := State.envx_present he
  exact ⟨fun hneg => by omega, fun hlo hhi => by omega, fun hbig => by omega⟩

end Sys2Proof.Machine
end

section
/-! PROOFS. The transition graph (R145): what an operation and a step may do to a voice's slot. Settles O29. -/
namespace Sys2Proof.Machine

open Sys2Proof

/-! ### Slots and the graph -/

theorem SlotMoves.refl (i : Instr) (v : Voice) (o : Option Env) : SlotMoves i v o o := .inl rfl

/-- A slot that advances, in ADV of its voice or in TICK, follows the graph; an absent one stays absent (R145, R150). -/
theorem SlotMoves.advance {i : Instr} {v : Voice} (hi : i = .adv v ∨ i = .tick) (o : Option Env) :
    SlotMoves i v o (advSlot o).2 := by
  cases o with
  | none => exact .refl i v none
  | some e => exact .inr (.inr (.inr ⟨hi, e, _, rfl, rfl, advEnv_cfg e, advEnv_successor e⟩))

/-- KOFF forces `Fade` on a present envelope and leaves an absent one (R131). -/
theorem SlotMoves.keyOff (v : Voice) (o : Option Env) : SlotMoves (.koff v) v o (keyOffSlot o) := by
  cases o with
  | none => exact .refl _ v none
  | some e => exact .inr (.inr (.inl ⟨rfl, Option.some_ne_none e, _, rfl, rfl⟩))

/-- An operation that writes one slot, and moves that slot along the graph, does so for every voice. -/
theorem SlotMoves.setEnv {i : Instr} {s : State} {u : Voice} {o : Option Env} (h : SlotMoves i u s.env[u] o) (v : Voice) :
    SlotMoves i v s.env[v] (s.setEnv u o).env[v] := by
  by_cases hv : v = u
  · subst hv; rwa [State.setEnv_get_same]
  · rw [State.setEnv_get_other s hv]; exact .refl i v _

/-- An operation that answers moves every slot along the graph only (R145). -/
theorem exec_slotMoves {i : Instr} {s t : State} (h : exec i s = .next t) (v : Voice) :
    SlotMoves i v s.env[v] t.env[v] := by
  cases exec_effect h with
  | install i u c g sl sr d hi hv hc hg =>
    exact SlotMoves.setEnv (.inr (.inl ⟨hi, hv, _, rfl, firstOk_isFirst hc⟩)) v
  | keyOff u => exact SlotMoves.setEnv (.keyOff u _) v
  | advance u => exact SlotMoves.setEnv (.advance (.inl rfl) _) v
  | tick =>
    rw [tickEffect_eq, advancedEnv_voiceOrder]
    exact .advance (.inr rfl) _
  | pull n => rw [pullFrames_frame n.toNat s]; exact .refl _ v _
  | setAdsr | setGain | setMvolL | setMvolR | view | hold | close => exact .refl _ v _

/-! ### Slots and the turns -/

@[simp] theorem publishIfDue_env (s : State) : (publishIfDue s).env = s.env := by
  rcases publishIfDue_cases s with ⟨_, h⟩ | ⟨_, h⟩ <;> rw [h]; rfl

@[simp] theorem publishIfDue_prodIn (s : State) : (publishIfDue s).prodIn = s.prodIn := by
  rcases publishIfDue_cases s with ⟨_, h⟩ | ⟨_, h⟩ <;> rw [h]; rfl

/-- A consumer turn leaves every slot as it was (R39). -/
theorem consumerTurn_env {k : Turn} (hk : k = .consumer ∨ k = .consumerPart) {s t : State} (h : takeTurn k s = .next t) :
    t.env = s.env := by
  obtain ⟨howned, _⟩ := State.outsideConsumer_eq_iff.mp (consumerTurn_frame hk h).1
  simp only [State.producerOwned, Prod.mk.injEq] at howned
  obtain ⟨_, _, henv, _⟩ := howned
  exact henv

/-- A producer turn moves a slot only by the command that it runs (R145). -/
theorem producerTurn_slot {s t : State} (h : takeTurn .producer s = .next t) (v : Voice) :
    t.env[v] = s.env[v] ∨
    ∃ c b rest i, s.prodIn = ⟨c, b⟩ :: rest ∧ decode c = .ok i ∧ SlotMoves i v s.env[v] t.env[v] := by
  rcases producer_next h with ⟨_, rfl⟩ | ⟨c, b, rest, i, u, hport, hd, _, he, rfl⟩ | ⟨c, b, rest, x, _, rfl⟩
  · left; simp
  · rw [publishIfDue_prodIn] at hport
    have hmoves := exec_slotMoves he v
    simp only [publishIfDue_env] at hmoves ⊢
    exact .inr ⟨c, b, rest, i, hport, hd, hmoves⟩
  · left; simp

/-! ### The statement -/

/-- Settles O29: an operation by its effect on the one slot it writes (TICK: on every slot), a step by the turn it takes; only a
producer turn's command moves a slot. -/
theorem curvesFollowTheTransitionGraph : Obligations.CurvesFollowTheTransitionGraph := by
  refine ⟨fun i s t v h => exec_slotMoves h v, fun s t v hreset h => ?_⟩
  rcases step_cases h with ⟨_, rfl⟩ | ⟨ts, hts, h⟩ | ⟨ts, _, rfl⟩ | ⟨k, ts, _, hk, h⟩ | ⟨d, ts, hts, _⟩
  · exact .inl rfl
  · rcases producerTurn_slot h v with hsame | ⟨c, b, rest, i, hport, hd, hmoves⟩
    · exact .inl hsame
    · exact .inr ⟨ts, c, b, rest, i, hts, hport, hd, hmoves⟩
  · left; rw [publishIfDue_env]
  · left; rw [consumerTurn_env hk h]
  · rw [resetDue_cons hts] at hreset; cases hreset

end Sys2Proof.Machine
end

section
/-! PROOFS. The commands of one voice: KON (R130, R148), KOFF (R131) and ADV of a muted voice (R150), each as one write of its
slot, and their independence of the other voices (R149). Settles O8, O12, O17, O18 and O30. -/
namespace Sys2Proof

/-! ### The command words -/

theorem decode_kon (v : Voice) : decode (.cmd (packCmd 0x3#4 (BitVec.ofNat 3 v) 0#16)) = .ok (.kon v) := by
  simp [decode, decodeCmd]

theorem decode_koff (v : Voice) : decode (.cmd (packCmd 0x4#4 (BitVec.ofNat 3 v) 0#16)) = .ok (.koff v) := by
  simp [decode, decodeCmd]

theorem decode_adv (v : Voice) : decode (.cmd (packCmd 0x8#4 (BitVec.ofNat 3 v) 0#16)) = .ok (.adv v) := by
  simp [decode, decodeCmd]

end Sys2Proof

namespace Sys2Proof.Machine

open Sys2Proof

/-! ### The envelope of a key-on -/

/-- `InitialCurve` of the two registers' contents (R112). -/
def konCurve (w : BitVec 16) (b : BitVec 8) : Curve := initialCurve (decodeAdsr w) (decodeGain b)

/-- The envelope that KON puts in the slot of a voice whose registers hold `w` and `b` (R130); `exec_kon` ties it to KON. -/
def konEnv (w : BitVec 16) (b : BitVec 8) : Env :=
  ⟨konCurve w b, (initialGain (konCurve w b)).getD 0, 0, snapshotOf w⟩

theorem konCurve_isFirst (w : BitVec 16) (b : BitVec 8) : (konCurve w b).isFirst = true := by
  unfold konCurve initialCurve
  split
  · exact adsrCurve_first _ _
  · exact gainCurve_first _

theorem exec_kon (v : Voice) (s : State) :
    exec (.kon v) s = .next (s.setEnv v (some (konEnv s.adsr[v] s.gain[v]))) := by
  obtain ⟨g, hg, hin⟩ := installEnv_first (konCurve_isFirst s.adsr[v] s.gain[v]) v (snapshotOf s.adsr[v]) s
  simp only [konEnv, hg, Option.getD_some]
  simp only [exec, execKon, onVoice_voice]
  exact hin

/-- The envelope of a key-on, from its curve and that curve's initial gain (R113). -/
theorem konEnv_of_curve {w : BitVec 16} {b : BitVec 8} {c : Curve} {g : Int} (hc : konCurve w b = c)
    (hg : initialGain c = some g) : (konEnv w b).curve = c ∧ (konEnv w b).gain = g := by
  subst hc
  exact ⟨rfl, by simp only [konEnv, hg, Option.getD_some]⟩

theorem konCurve_enabled {w : BitVec 16} (h : enField w = 1#1) (b : BitVec 8) :
    konCurve w b = adsrCurve (attackStep (aField w)) (decayStep (dField w)) := by
  simp [konCurve, initialCurve, decodeAdsr, h]

theorem konCurve_disabled {w : BitVec 16} (h : enField w = 0#1) (b : BitVec 8) :
    konCurve w b = gainCurve (decodeGain b) := by
  simp [konCurve, initialCurve, decodeAdsr, h]

theorem decodeGain_of_direct {b : BitVec 8} (h : directFlag b = 0#1) :
    decodeGain b = .direct ((levelField b).toNat * 16) := by
  simp [decodeGain, directLevel, h]

theorem decodeGain_of_curve {b : BitVec 8} (h : directFlag b = 1#1) :
    decodeGain b = .curve (modeField b) (stepS (paramField b)) := by
  simp [decodeGain, h]

/-- A first curve is never muted (R30). -/
theorem mutedEnv_of_isFirst {e : Env} (h : e.curve.isFirst = true) : mutedEnv (some e) = false := by
  have hfade : e.curve ≠ .fade := by rintro hc; rw [hc] at h; cases h
  simp [mutedEnv, hfade]

/-- With the enable bit the envelope is the attack, or the decay where there is no attack step (R112 lines 1 and 2). -/
theorem konEnv_enabled {w : BitVec 16} (h : enField w = 1#1) (b : BitVec 8) :
    (∀ n, attackStep (aField w) = some n → (konEnv w b).curve = .attack n ∧ (konEnv w b).gain = 0) ∧
    (attackStep (aField w) = none → (konEnv w b).curve = .decay (decayStep (dField w)) ∧ (konEnv w b).gain = 2016) := by
  have hc := konCurve_enabled h b
  exact ⟨fun n hn => konEnv_of_curve (by rw [hc, hn]; rfl) rfl, fun hn => konEnv_of_curve (by rw [hc, hn]; rfl) rfl⟩

/-- A curve byte without a step holds the largest gain or 0 (R112 lines 4 and 5). -/
theorem konEnv_hold {w : BitVec 16} {b : BitVec 8} (h : enField w = 0#1) (hb : directFlag b = 1#1)
    (hn : stepS (paramField b) = none) :
    ((modeField b).toNat < 2 → (konEnv w b).curve = .static 2016 ∧ (konEnv w b).gain = 2016) ∧
    (2 ≤ (modeField b).toNat → (konEnv w b).curve = .static 0 ∧ (konEnv w b).gain = 0) := by
  have hc : konCurve w b = if (modeField b).toNat < 2 then .static 2016 else .static 0 := by
    rw [konCurve_disabled h, decodeGain_of_curve hb, hn]; rfl
  exact ⟨fun hm => konEnv_of_curve (hc.trans (if_pos hm)) rfl,
    fun hm => konEnv_of_curve (hc.trans (if_neg (Nat.not_lt.mpr hm))) rfl⟩

/-- A curve byte with a step starts the curve of its mode (R112 lines 6 to 9). -/
theorem konEnv_stepped {w : BitVec 16} {b : BitVec 8} {n : Nat} (h : enField w = 0#1) (hb : directFlag b = 1#1)
    (hn : stepS (paramField b) = some n) :
    (modeField b = 0#2 → (konEnv w b).curve = .linDecr n ∧ (konEnv w b).gain = 2016) ∧
    (modeField b = 1#2 → (konEnv w b).curve = .expDecr n ∧ (konEnv w b).gain = 2016) ∧
    (modeField b = 2#2 → (konEnv w b).curve = .linIncr n ∧ (konEnv w b).gain = 0) ∧
    (modeField b = 3#2 → (konEnv w b).curve = .bentIncr n ∧ (konEnv w b).gain = 0) := by
  have hc : konCurve w b = gainCurve (.curve (modeField b) (some n)) := by
    rw [konCurve_disabled h, decodeGain_of_curve hb, hn]
  refine ⟨?_, ?_, ?_, ?_⟩ <;> intro hm <;> rw [hm] at hc <;> exact konEnv_of_curve hc rfl

/-- Settles O8: the tables by evaluation; KON by `exec_kon`, whose curve the enable bit, the flag, the step and the mode
decide. -/
theorem konInstallsTheInitialCurve : Obligations.KonInstallsTheInitialCurve := by
  refine ⟨by decide, by decide, by decide, by decide, by decide, fun s v => ⟨decode_kon v, (konEnv s.adsr[v] s.gain[v]).curve,
    (konEnv s.adsr[v] s.gain[v]).gain, exec_kon v s, mutedEnv_of_isFirst (konCurve_isFirst _ _),
    fun h => konEnv_enabled h _, fun h hb => ?_, konEnv_hold, fun h hb n hn => konEnv_stepped h hb hn⟩⟩
  exact konEnv_of_curve (by rw [konCurve_disabled h, decodeGain_of_direct hb]; rfl) rfl

/-! ### First curves -/

/-- A key-on that answers leaves its voice in a first curve (R148). -/
theorem exec_keyOn_first {i : Instr} {s t : State} {v : Voice} (hi : isKeyOn i = true) (hv : i.voice? = some v.val)
    (h : exec i s = .next t) : ∃ e, t.env[v] = some e ∧ e.curve.isFirst = true := by
  cases exec_effect h with
  | install i u c g sl sr d _ hu hc hg =>
    obtain rfl : u = v := Fin.ext (Option.some.inj (hu.symm.trans hv))
    exact ⟨_, State.setEnv_get_same s u _, firstOk_isFirst hc⟩
  | setAdsr | setGain | setMvolL | setMvolR | view | keyOff | advance | tick | hold | close | pull => cases hi

/-- Of the moves of a slot only a key-on's starts from an absent envelope (R148). -/
theorem SlotMoves.of_absent {i : Instr} {v : Voice} {e : Env} (h : SlotMoves i v none (some e)) :
    isKeyOn i = true ∧ i.voice? = some v.val ∧ e.curve.isFirst = true := by
  rcases h with h | ⟨hi, hv, e', he, hfirst⟩ | ⟨_, hne, _⟩ | ⟨_, _, _, hbefore, _⟩
  · cases h
  · cases he; exact ⟨hi, hv, hfirst⟩
  · exact absurd rfl hne
  · cases hbefore

theorem construct_first {c : Curve} (h : c.isFirst = true) (cfg : EnvCfg) :
    ∃ e, construct c cfg = .ok e ∧ e.curve = c ∧ e.counter = 0 ∧ e.cfg = cfg ∧ initialGain c = some e.gain := by
  rw [← initialGain_isSome, Option.isSome_iff_exists] at h
  obtain ⟨g, hg⟩ := h
  exact ⟨⟨c, g, 0, cfg⟩, by rw [construct, hg], rfl, rfl, rfl, hg⟩

/-- Settles O12: from the moves a slot can make, the installation of a key-on, and the curves that have an initial gain. -/
theorem noEnvelopeStartsInFadeOrSustain : Obligations.NoEnvelopeStartsInFadeOrSustain := by
  refine ⟨fun i s t v e h habsent hpresent => ?_, fun i s t v => exec_keyOn_first, fun _ => rfl, fun _ _ => rfl,
    fun c cfg h => construct_first h cfg⟩
  have hmoves := exec_slotMoves h v
  rw [habsent, hpresent] at hmoves
  exact hmoves.of_absent

/-! ### KOFF -/

theorem exec_koff (v : Voice) (s : State) : exec (.koff v) s = .next (s.setEnv v (keyOffSlot s.env[v])) := by
  simp only [exec, execKoff, onVoice_voice]

@[simp] theorem keyOffSlot_keyOffSlot (o : Option Env) : keyOffSlot (keyOffSlot o) = keyOffSlot o := by
  cases o <;> rfl

/-- KOFF of a slot that it does not change. -/
theorem exec_koff_of_fixed {v : Voice} {s : State} (h : keyOffSlot s.env[v] = s.env[v]) : exec (.koff v) s = .next s := by
  rw [exec_koff, h, State.setEnv_self]

theorem keyOffSlot_fade {e : Env} (hc : e.curve = .fade) (hk : e.counter = 0) : keyOffSlot (some e) = some e := by
  obtain ⟨c, g, k, cfg⟩ := e
  cases hc
  cases hk
  rfl

/-- Settles O17: KOFF writes `keyOffSlot` of the slot, which is idempotent and, at a gain at or below 0, muted. -/
theorem koffForcesFade : Obligations.KoffForcesFade := by
  intro s v
  refine ⟨decode_koff v, fun h => exec_koff_of_fixed (by rw [h]; rfl), fun e he => ⟨?_, fun hc hk => ?_⟩, fun t h => ?_⟩
  · rw [exec_koff, he]; rfl
  · exact exec_koff_of_fixed (by rw [he, keyOffSlot_fade hc hk])
  · rw [exec_koff] at h
    cases h
    refine ⟨exec_koff_of_fixed (by rw [State.setEnv_get_same, keyOffSlot_keyOffSlot]), fun e he hg => ?_⟩
    rw [State.muted, State.setEnv_get_same, he]
    simpa [keyOffSlot, mutedEnv] using hg

/-! ### ADV -/

theorem exec_adv (v : Voice) (s : State) :
    exec (.adv v) s = .next { s.setEnv v (advSlot s.env[v]).2 with advOut := encodeAdv (advSlot s.env[v]).1 } := by
  simp only [exec, execAdv, onVoice_voice, advVoice]

theorem mutedEnv_some_iff (e : Env) : mutedEnv (some e) = true ↔ e.curve = .fade ∧ e.gain ≤ 0 := by
  simp [mutedEnv]

/-- ADV of a muted voice writes the slot back as it was (R150, R222). -/
theorem exec_adv_muted {v : Voice} {s : State} (h : s.muted v = true) :
    exec (.adv v) s = .next { s with advOut := 0#17 } := by
  rw [exec_adv, advSlot_muted h, State.setEnv_self]
  rfl

/-- Settles O18: a muted slot answers `Exhausted` and stays, and an absent one is muted. -/
theorem advOnMutedVoiceIsExhausted : Obligations.AdvOnMutedVoiceIsExhausted := by
  intro s v
  refine ⟨decode_adv v, fun h => ?_, fun e he => ?_, exec_adv_muted⟩
  · have hmuted : s.muted v = true := by rw [State.muted, h]; rfl
    exact ⟨hmuted, exec_adv_muted hmuted⟩
  · rw [State.muted, he, mutedEnv_some_iff]

/-! ### Independence -/

/-- What ADV, KON and KOFF do is one function of the voice's own registers, slot and the result port: the new slot and the new
result (R149). -/
theorem exec_voice_local {v : Voice} {i : Instr} (hi : i = .adv v ∨ i = .kon v ∨ i = .koff v) :
    ∃ f : BitVec 16 → BitVec 8 → Option Env → BitVec 17 → Option Env × BitVec 17, ∀ s, exec i s =
      .next { s.setEnv v (f s.adsr[v] s.gain[v] s.env[v] s.advOut).1 with
        advOut := (f s.adsr[v] s.gain[v] s.env[v] s.advOut).2 } := by
  rcases hi with rfl | rfl | rfl
  · exact ⟨fun _ _ o _ => ((advSlot o).2, encodeAdv (advSlot o).1), exec_adv v⟩
  · exact ⟨fun w b _ r => (some (konEnv w b), r), exec_kon v⟩
  · exact ⟨fun _ _ o r => (keyOffSlot o, r), exec_koff v⟩

/-- Settles O30: each clause reads off the one function that `exec_voice_local` gives. -/
theorem voicesAreIndependent : Obligations.VoicesAreIndependent := by
  intro v i hi
  obtain ⟨f, hf⟩ := exec_voice_local hi
  refine ⟨fun s t h => ?_, fun s s' t t' hadsr hgain henv hout h h' => ?_, fun s => ⟨_, hf s⟩⟩
  · rw [hf] at h
    cases h
    simp only [State.setEnv_get_same]
    rfl
  · rw [hf] at h h'
    cases h
    cases h'
    simp only [State.setEnv_get_same, hadsr, hgain, henv, hout, and_self]

end Sys2Proof.Machine
end

section
/-! PROOFS. One call of ADV: what the count and the check of a tick do to the gain (R133 to R144, R147), and what holds after an
entry into `Static`. Settles O26 and O28. -/
namespace Sys2Proof.Machine

open Sys2Proof

/-! ### The count and the checks -/

theorem countTick_gain (n : Nat) (f : Int → Int) (e : Env) :
    (countTick n f e).gain = if n ≤ e.counter + 1 then e.gain + f e.gain else e.gain := by
  unfold countTick; split <;> rfl

/-! What a check answers where the curve has run its course; elsewhere it answers the envelope as it is. -/

theorem checkAttack_done {e : Env} (h : 2016 ≤ e.gain) : checkAttack e = ⟨.decay e.cfg.decayStep, 2016, 0, e.cfg⟩ := if_pos h
theorem checkAttack_stay {e : Env} (h : ¬ 2016 ≤ e.gain) : checkAttack e = e := if_neg h

theorem checkCeiling_done {e : Env} (h : 2016 ≤ e.gain) : checkCeiling e = ⟨.static 2016, 2016, 0, e.cfg⟩ := if_pos h
theorem checkCeiling_stay {e : Env} (h : ¬ 2016 ≤ e.gain) : checkCeiling e = e := if_neg h

theorem checkFloor_done {e : Env} (h : e.gain ≤ 0) : checkFloor e = ⟨.static 0, 0, 0, e.cfg⟩ := if_pos h
theorem checkFloor_stay {e : Env} (h : ¬ e.gain ≤ 0) : checkFloor e = e := if_neg h

theorem checkAttack_gain (e : Env) : (checkAttack e).gain = min 2016 e.gain := by
  by_cases h : 2016 ≤ e.gain
  · rw [checkAttack_done h, min_eq_left h]
  · rw [checkAttack_stay h, min_eq_right (le_of_not_ge h)]

theorem checkCeiling_gain (e : Env) : (checkCeiling e).gain = min 2016 e.gain := by
  by_cases h : 2016 ≤ e.gain
  · rw [checkCeiling_done h, min_eq_left h]
  · rw [checkCeiling_stay h, min_eq_right (le_of_not_ge h)]

theorem checkFloor_gain (e : Env) : (checkFloor e).gain = max 0 e.gain := by
  by_cases h : e.gain ≤ 0
  · rw [checkFloor_done h, max_eq_left h]
  · rw [checkFloor_stay h, max_eq_right (le_of_not_ge h)]

/-- `Decay`'s check keeps the gain, unless it holds the sustain level for want of a step (R135; C12). -/
theorem checkDecay_gain (e : Env) : (checkDecay e).gain = e.gain ∨
    (checkDecay e).curve = .static e.cfg.sustainLevel ∧ (checkDecay e).gain = e.cfg.sustainLevel := by
  unfold checkDecay
  split
  · split
    · exact .inl rfl
    · exact .inr ⟨rfl, rfl⟩
  · exact .inl rfl

/-! ### Entering `Static` -/

/-- An envelope in `Static(l)`, if it is in one, has gain `l` and counter 0. -/
def StaticSettled (e : Env) : Prop := ∀ l : Nat, e.curve = .static l → e.gain = l ∧ e.counter = 0

theorem staticSettled_enterStatic (l : Nat) (e : Env) : StaticSettled (enterStatic l e) := by
  intro l' h
  cases h
  exact ⟨rfl, rfl⟩

theorem staticSettled_of_ne {e : Env} (h : ∀ l, e.curve ≠ .static l) : StaticSettled e := fun l hl => absurd hl (h l)

theorem StaticSettled.checkAttack {e : Env} (h : StaticSettled e) : StaticSettled (checkAttack e) := by
  unfold Machine.checkAttack
  split
  · exact staticSettled_of_ne fun _ => Curve.noConfusion
  · exact h

theorem StaticSettled.checkDecay {e : Env} (h : StaticSettled e) : StaticSettled (checkDecay e) := by
  unfold Machine.checkDecay
  split
  · split
    · exact staticSettled_of_ne fun _ => Curve.noConfusion
    · exact staticSettled_enterStatic _ e
  · exact h

theorem StaticSettled.checkFloor {e : Env} (h : StaticSettled e) : StaticSettled (checkFloor e) := by
  unfold Machine.checkFloor
  split
  · exact staticSettled_enterStatic 0 e
  · exact h

theorem StaticSettled.checkCeiling {e : Env} (h : StaticSettled e) : StaticSettled (checkCeiling e) := by
  unfold Machine.checkCeiling
  split
  · exact staticSettled_enterStatic _ e
  · exact h

/-- An ADV that enters `Static` does so through `enterStatic`, whatever the curve before (R144). -/
theorem advEnv_staticSettled {e : Env} (h : ∀ l, e.curve ≠ .static l) : StaticSettled (advEnv e).2 := by
  have hcount (n : Nat) (f : Int → Int) : StaticSettled (countTick n f e) :=
    staticSettled_of_ne (by simpa only [countTick_curve] using h)
  obtain ⟨c, g, k, cfg⟩ := e
  cases c with
  | static l => exact absurd rfl (h l)
  | fade => unfold advEnv; simp only; split <;> exact staticSettled_of_ne fun _ => Curve.noConfusion
  | attack n => exact (hcount n _).checkAttack
  | decay n => exact (hcount n _).checkDecay
  | sustain n | linDecr n | expDecr n => exact (hcount n _).checkFloor
  | linIncr n | bentIncr n => exact (hcount n _).checkCeiling

/-- ADV in `Static(l)` answers `l` and changes nothing (R142). -/
theorem advEnv_static {e : Env} {l : Nat} (h : e.curve = .static l) : advEnv e = (.sample l, e) := by
  unfold advEnv; rw [h]

theorem encodeAdv_sample_natCast (l : Nat) : encodeAdv (.sample l) = 1#1 ++ BitVec.ofNat 16 l := by
  simp only [encodeAdv, BitVec.ofInt_natCast]

/-- ADV of a present envelope, as the state it answers and the slot there. -/
theorem exec_adv_present {s : State} {v : Voice} {e : Env} (h : s.env[v] = some e) :
    exec (.adv v) s = .next { s.setEnv v (some (advEnv e).2) with advOut := encodeAdv (advEnv e).1 } := by
  rw [exec_adv, h]; rfl

/-- Settles O26: the entry leaves gain `l` and counter 0, from which the next ADV, the view and KOFF are read off. -/
theorem enteringStaticSetsTheGain : Obligations.EnteringStaticSetsTheGain := by
  intro s t v e e' l he hne h he' hl
  have hslot : (advEnv e).2 = e' := by
    rw [exec_adv_present he] at h
    cases h
    simpa only [State.setEnv_get_same, Option.some.injEq] using he'
  obtain ⟨hgain, hcounter⟩ := hslot ▸ advEnv_staticSettled hne l (by rw [hslot, hl])
  refine ⟨hgain, hcounter, ⟨_, exec_adv_present he', ?_, ?_⟩, fun hle => ?_, _, { e' with curve := .fade, counter := 0 },
    exec_koff v t, by rw [State.setEnv_get_same, he']; rfl, hgain, rfl⟩
  · rw [advEnv_static hl]; exact encodeAdv_sample_natCast l
  · rw [advEnv_static hl, ← he', State.setEnv_self]
  · have hview := State.envx_present he'
    omega

/-! ### The deltas -/

theorem expDelta_eq (g : Int) : expDelta g = -((g - 1) / 256 + 1) := rfl

/-- The exponential delta of a gain of at least 0 does not take it below 0 (R143). -/
theorem expDelta_bounds {g : Int} (h : 0 ≤ g) : 0 ≤ g + expDelta g ∧ expDelta g ≤ 0 := by
  rw [expDelta_eq]
  omega

theorem expDelta_neg {g : Int} (h : 1 ≤ g) : expDelta g < 0 := by
  rw [expDelta_eq]
  omega

theorem bentDelta_nonneg (g : Int) : 0 ≤ bentDelta g := by
  unfold bentDelta
  split <;> decide

/-! ### The gain after the count -/

section Counted
variable {e : Env} {n : Nat}

/-- An exponential curve (R135, R136, R140) counts with `expDelta`. -/
theorem countedGain_exp (h : e.curve = .decay n ∨ e.curve = .sustain n ∨ e.curve = .expDecr n) :
    countedGain e = if n ≤ e.counter + 1 then e.gain + expDelta e.gain else e.gain := by
  unfold countedGain
  rcases h with h | h | h <;> rw [h] <;> exact countTick_gain n expDelta e

theorem countedGain_exp_bounds (h : e.curve = .decay n ∨ e.curve = .sustain n ∨ e.curve = .expDecr n) (hg : 0 ≤ e.gain) :
    0 ≤ countedGain e ∧ countedGain e ≤ e.gain := by
  have hdelta := expDelta_bounds hg
  rw [countedGain_exp h]
  split <;> omega

theorem countedGain_linDecr_le (h : e.curve = .linDecr n) : countedGain e ≤ e.gain := by
  have hstep : -Config.gainStep ≤ 0 := by decide
  unfold countedGain
  rw [h]
  change (countTick n (fun _ => -Config.gainStep) e).gain ≤ e.gain
  rw [countTick_gain]
  split <;> omega

theorem countedGain_falling_le (h : e.curve = .sustain n ∨ e.curve = .linDecr n ∨ e.curve = .expDecr n) (hg : 0 ≤ e.gain) :
    countedGain e ≤ e.gain := by
  rcases h with h | h | h
  · exact (countedGain_exp_bounds (.inr (.inl h)) hg).2
  · exact countedGain_linDecr_le h
  · exact (countedGain_exp_bounds (.inr (.inr h)) hg).2

/-- The rising curves do not lower the gain (R134, R137, R138). -/
theorem le_countedGain_rising (h : e.curve = .attack n ∨ e.curve = .linIncr n ∨ e.curve = .bentIncr n) :
    e.gain ≤ countedGain e := by
  have hcount (f : Int → Int) (hf : 0 ≤ f e.gain) : e.gain ≤ (countTick n f e).gain := by
    rw [countTick_gain]
    split <;> omega
  unfold countedGain
  rcases h with h | h | h <;> rw [h]
  · exact hcount _ (by decide)
  · exact hcount _ (by decide)
  · exact hcount _ (bentDelta_nonneg _)

/-! ### The gain after the check -/

theorem advEnv_gain_rising (h : e.curve = .attack n ∨ e.curve = .linIncr n ∨ e.curve = .bentIncr n) :
    (advEnv e).2.gain = min 2016 (countedGain e) := by
  unfold advEnv countedGain
  rcases h with h | h | h <;> rw [h]
  · exact checkAttack_gain _
  · exact checkCeiling_gain _
  · exact checkCeiling_gain _

theorem advEnv_gain_falling (h : e.curve = .sustain n ∨ e.curve = .linDecr n ∨ e.curve = .expDecr n) :
    (advEnv e).2.gain = max 0 (countedGain e) := by
  unfold advEnv countedGain
  rcases h with h | h | h <;> rw [h] <;> exact checkFloor_gain _

theorem advEnv_gain_decay (h : e.curve = .decay n) : (advEnv e).2.gain = countedGain e ∨
    (advEnv e).2.curve = .static e.cfg.sustainLevel ∧ (advEnv e).2.gain = e.cfg.sustainLevel := by
  have hcheck := checkDecay_gain (countTick n expDelta e)
  rw [countTick_cfg] at hcheck
  unfold advEnv countedGain
  rw [h]
  exact hcheck

/-- A stepped curve always answers the gain before the tick (R133). -/
theorem advEnv_sample_stepped (h : e.curve.step? = some n) : (advEnv e).1 = .sample e.gain := by
  unfold advEnv
  cases hc : e.curve with
  | static l | fade => rw [hc] at h; cases h
  | attack | decay | sustain | linIncr | bentIncr | linDecr | expDecr => rfl

end Counted

/-- ADV in `Fade` (R141). -/
theorem advEnv_fade {e : Env} (h : e.curve = .fade) :
    advEnv e = if e.gain ≤ 0 then (.exhausted, e) else (.sample e.gain, { e with gain := e.gain - 8 }) := by
  unfold advEnv; rw [h]; rfl

/-! ### The invariant, by the kind of the curve -/

theorem EnvInv.stepped {e : Env} {n : Nat} (hinv : EnvInv e) (h : e.curve.step? = some n) :
    0 ≤ e.gain ∧ e.gain ≤ 2016 := by
  obtain ⟨_, hcurve⟩ := hinv
  cases hc : e.curve with
  | static l | fade => rw [hc] at h; cases h
  | attack | decay | sustain | linIncr | bentIncr | linDecr | expDecr =>
    rw [hc] at hcurve
    obtain ⟨_, hlo, hhi, _⟩ := hcurve
    exact ⟨hlo, hhi⟩

theorem EnvInv.static {e : Env} {l : Nat} (hinv : EnvInv e) (h : e.curve = .static l) : e.gain = l ∧ l ≤ 2047 := by
  obtain ⟨_, hcurve⟩ := hinv
  rw [h] at hcurve
  obtain ⟨hgain, hle, _⟩ := hcurve
  exact ⟨hgain, hle⟩

theorem EnvInv.fade {e : Env} (hinv : EnvInv e) (h : e.curve = .fade) : e.gain ≤ 2047 := by
  obtain ⟨_, hcurve⟩ := hinv
  rw [h] at hcurve
  obtain ⟨_, hle, _⟩ := hcurve
  exact hle

/-! ### Bounds and monotonicity -/

section Bounds
variable {e : Env} (hinv : EnvInv e)
include hinv

theorem advEnv_gain_bounds (hne : e.curve ≠ .fade) : 0 ≤ (advEnv e).2.gain ∧
    ((advEnv e).2.gain ≤ 2016 ∨ ∃ l : Nat, (advEnv e).2.curve = .static l ∧ (advEnv e).2.gain = l ∧ l ≤ 2047) := by
  cases hc : e.curve with
  | fade => exact absurd hc hne
  | static l =>
    obtain ⟨hgain, hle⟩ := hinv.static hc
    have hpos : 0 ≤ e.gain := by omega
    rw [advEnv_static hc]
    exact ⟨hpos, .inr ⟨l, hc, hgain, hle⟩⟩
  | decay n =>
    obtain ⟨hlo, hhi⟩ := hinv.stepped (n := n) (by rw [hc]; rfl)
    obtain ⟨hlo', hle⟩ := countedGain_exp_bounds (.inl hc) hlo
    have hlevel := hinv.1.sustainLevel_le
    rcases advEnv_gain_decay hc with hgain | ⟨hcurve, hgain⟩
    · exact ⟨by omega, .inl (by omega)⟩
    · exact ⟨by omega, .inr ⟨_, hcurve, hgain, hlevel⟩⟩
  | attack n | linIncr n | bentIncr n =>
    obtain ⟨hlo, hhi⟩ := hinv.stepped (n := n) (by rw [hc]; rfl)
    have hrising : e.curve = .attack n ∨ e.curve = .linIncr n ∨ e.curve = .bentIncr n := by simp [hc]
    have hcounted := le_countedGain_rising hrising
    have hgain := advEnv_gain_rising hrising
    exact ⟨by omega, .inl (by omega)⟩
  | sustain n | linDecr n | expDecr n =>
    obtain ⟨hlo, hhi⟩ := hinv.stepped (n := n) (by rw [hc]; rfl)
    have hfalling : e.curve = .sustain n ∨ e.curve = .linDecr n ∨ e.curve = .expDecr n := by simp [hc]
    have hcounted := countedGain_falling_le hfalling hlo
    have hgain := advEnv_gain_falling hfalling
    exact ⟨by omega, .inl (by omega)⟩

theorem advEnv_rising_le {n : Nat} (h : e.curve = .attack n ∨ e.curve = .linIncr n ∨ e.curve = .bentIncr n) :
    e.gain ≤ (advEnv e).2.gain := by
  have hhi : e.gain ≤ 2016 := by
    refine (hinv.stepped (n := n) ?_).2
    rcases h with h | h | h <;> rw [h] <;> rfl
  have hcounted := le_countedGain_rising h
  rw [advEnv_gain_rising h]
  omega

theorem advEnv_falling_le {n : Nat} (h : e.curve = .decay n ∨ e.curve = .sustain n ∨ e.curve = .linDecr n ∨
    e.curve = .expDecr n ∨ e.curve = .fade) (hsame : (advEnv e).2.curve = e.curve) : (advEnv e).2.gain ≤ e.gain := by
  have hfloor (hc : e.curve = .sustain n ∨ e.curve = .linDecr n ∨ e.curve = .expDecr n) (hs : e.curve.step? = some n) :
      (advEnv e).2.gain ≤ e.gain := by
    obtain ⟨hlo, _⟩ := hinv.stepped hs
    have hcounted := countedGain_falling_le hc hlo
    rw [advEnv_gain_falling hc]
    omega
  rcases h with h | h | h | h | h
  · obtain ⟨hlo, _⟩ := hinv.stepped (n := n) (by rw [h]; rfl)
    have hcounted := (countedGain_exp_bounds (.inl h) hlo).2
    rcases advEnv_gain_decay h with hgain | ⟨hcurve, _⟩
    · omega
    · rw [hsame, h] at hcurve; cases hcurve
  · exact hfloor (.inl h) (by rw [h]; rfl)
  · exact hfloor (.inr (.inl h)) (by rw [h]; rfl)
  · exact hfloor (.inr (.inr h)) (by rw [h]; rfl)
  · rw [advEnv_fade h]
    split
    · exact le_refl _
    · change e.gain - 8 ≤ e.gain
      omega

theorem advEnv_sample_bounds {x : Int} (h : (advEnv e).1 = .sample x) :
    x = e.gain ∧ 0 ≤ x ∧ x ≤ 2047 ∧ (e.curve = .fade → 1 ≤ x) := by
  cases hc : e.curve with
  | static l =>
    obtain ⟨hgain, hle⟩ := hinv.static hc
    rw [advEnv_static hc] at h
    cases h
    exact ⟨hgain.symm, by omega, by omega, fun h => by cases h⟩
  | fade =>
    have hhi := hinv.fade hc
    rw [advEnv_fade hc] at h
    split at h
    · cases h
    · cases h
      exact ⟨rfl, by omega, hhi, fun _ => by omega⟩
  | attack n | decay n | sustain n | linIncr n | bentIncr n | linDecr n | expDecr n =>
    have hs : e.curve.step? = some n := by rw [hc]; rfl
    obtain ⟨hlo, hhi⟩ := hinv.stepped hs
    rw [advEnv_sample_stepped hs] at h
    cases h
    exact ⟨rfl, hlo, by omega, fun h => by cases h⟩

end Bounds

/-- A delta of `Decay` or `ExpDecr` strictly lowers a gain of at least 1, and only the entry into the held sustain level puts
another gain in its place (R147; C12). -/
theorem advEnv_exp_gain {e : Env} {n : Nat} (h : e.curve = .decay n ∨ e.curve = .expDecr n) (hg : 1 ≤ e.gain) :
    (n ≤ e.counter + 1 → countedGain e < e.gain) ∧ (e.counter + 1 < n → countedGain e = e.gain) ∧
    ((advEnv e).2.gain = countedGain e ∨
      e.curve = .decay n ∧ (advEnv e).2.curve = .static e.cfg.sustainLevel ∧ (advEnv e).2.gain = e.cfg.sustainLevel) := by
  have hexp : e.curve = .decay n ∨ e.curve = .sustain n ∨ e.curve = .expDecr n := h.imp_right .inr
  have hcounted := countedGain_exp hexp
  have hdelta := expDelta_neg hg
  refine ⟨fun hn => ?_, fun hn => ?_, ?_⟩
  · rw [hcounted, if_pos hn]; omega
  · rw [hcounted, if_neg (Nat.not_le.mpr hn)]
  · rcases h with h | h
    · exact (advEnv_gain_decay h).imp_right fun hheld => ⟨h, hheld⟩
    · have hlo := (countedGain_exp_bounds hexp (by omega)).1
      left
      rw [advEnv_gain_falling (.inr (.inr h))]
      omega

/-- Settles O28: bounds, the exponential delta, the rising and the falling curves, the sample, each a lemma above. -/
theorem gainBoundsAndMonotonicity : Obligations.GainBoundsAndMonotonicity := by
  intro e hinv
  exact ⟨advEnv_gain_bounds hinv, fun n => advEnv_exp_gain, fun n => advEnv_rising_le hinv,
    fun n => advEnv_falling_le hinv, fun x => advEnv_sample_bounds hinv⟩

end Sys2Proof.Machine
end

section
/-! PROOFS. The step-count laws (R146): a stepped curve applies its delta once every `n` calls of ADV until its check ends it.
Settles O27. -/
namespace Sys2Proof.Machine

open Sys2Proof

/-! ### Repeated ADV -/

/-- The envelope after one ADV. -/
def advNext (e : Env) : Env := (advEnv e).2

theorem advTimes_succ {v : Nat} {s t : State} (h : exec (.adv v) s = .next t) (k : Nat) :
    advTimes v (k + 1) s = advTimes v k t := by
  simp only [advTimes, h]

/-- `k` ADV commands of a voice with an envelope all complete, and each advances that envelope. -/
theorem advTimes_present {v : Voice} (k : Nat) {s : State} {e : Env} (h : s.env[v] = some e) :
    ∃ t, advTimes v k s = .next t ∧ t.env[v] = some (advNext^[k] e) := by
  induction k generalizing s e with
  | zero => exact ⟨s, rfl, h⟩
  | succ k ih =>
    rw [advTimes_succ (exec_adv_present h), Function.iterate_succ_apply]
    exact ih (State.setEnv_get_same s v _)

/-! ### Repeated deltas -/

/-- The gain after a delta (R133). -/
def applyDelta (f : Int → Int) (g : Int) : Int := g + f g

/-- Where the delta is `d` at each of `m` gains in a row, `m` deltas add `m * d`. -/
theorem iterate_applyDelta_const {f : Int → Int} {d g : Int} (m : Nat) (h : ∀ i < m, f (g + i * d) = d) :
    (applyDelta f)^[m] g = g + m * d := by
  induction m with
  | zero => simp
  | succ m ih =>
    rw [Function.iterate_succ_apply', ih fun i hi => h i (Nat.lt_succ_of_lt hi), applyDelta, h m (Nat.lt_succ_self m)]
    push_cast
    ring

/-- 48 fast deltas take the bent line from 0 to the knee, and 59 slow ones from there to 2008 (R138). -/
theorem iterate_bentDelta : (applyDelta bentDelta)^[107] 0 = 2008 := by
  have hfast : (applyDelta bentDelta)^[48] 0 = 1536 :=
    iterate_applyDelta_const (d := 32) 48 fun i hi => if_neg (by simp only [Config.bentKnee]; omega)
  have hslow : (applyDelta bentDelta)^[59] 1536 = 2008 :=
    iterate_applyDelta_const (d := 8) 59 fun i hi => if_pos (by simp only [Config.bentKnee]; omega)
  rw [Function.iterate_add_apply _ 59 48, hfast, hslow]

/-- The exponential delta is `-d` from `256 (d - 1)` exclusive to `256 d` (R143). -/
theorem expDelta_of_band {g d : Int} (hlo : 256 * (d - 1) < g) (hhi : g ≤ 256 * d) : expDelta g = -d := by
  rw [expDelta_eq]
  omega

/-- As long as the gain stays in the band of `d`, every delta lowers it by `d`. -/
theorem iterate_expDelta_band (m : Nat) (d : Int) {g g' : Int} (hd : 0 ≤ d) (hlo : 256 * (d - 1) < g' + d)
    (hhi : g ≤ 256 * d) (hg' : g + m * -d = g') : (applyDelta expDelta)^[m] g = g' := by
  rw [← hg']
  refine iterate_applyDelta_const m fun i hi => ?_
  have hfirst : 0 ≤ (i : Int) * d := by positivity
  have hlast : ((i : Int) + 1) * d ≤ m * d := mul_le_mul_of_nonneg_right (by exact_mod_cast hi) hd
  exact expDelta_of_band (by linarith) (by linarith)

/-- 690 exponential deltas take 2016 to 1, band by band (R143, R146). -/
theorem iterate_expDelta : (applyDelta expDelta)^[690] 2016 = 1 := by
  have h8 := iterate_expDelta_band 28 8 (g := 2016) (g' := 1792) (by decide) (by decide) (by decide) (by decide)
  have h7 := iterate_expDelta_band 37 7 (g := 1792) (g' := 1533) (by decide) (by decide) (by decide) (by decide)
  have h6 := iterate_expDelta_band 43 6 (g := 1533) (g' := 1275) (by decide) (by decide) (by decide) (by decide)
  have h5 := iterate_expDelta_band 51 5 (g := 1275) (g' := 1020) (by decide) (by decide) (by decide) (by decide)
  have h4 := iterate_expDelta_band 63 4 (g := 1020) (g' := 768) (by decide) (by decide) (by decide) (by decide)
  have h3 := iterate_expDelta_band 86 3 (g := 768) (g' := 510) (by decide) (by decide) (by decide) (by decide)
  have h2 := iterate_expDelta_band 127 2 (g := 510) (g' := 256) (by decide) (by decide) (by decide) (by decide)
  have h1 := iterate_expDelta_band 255 1 (g := 256) (g' := 1) (by decide) (by decide) (by decide) (by decide)
  rw [Function.iterate_add_apply _ 662 28, h8, Function.iterate_add_apply _ 625 37, h7,
    Function.iterate_add_apply _ 582 43, h6, Function.iterate_add_apply _ 531 51, h5,
    Function.iterate_add_apply _ 468 63, h4, Function.iterate_add_apply _ 382 86, h3,
    Function.iterate_add_apply _ 255 127, h2, h1]

/-! ### Ramps -/

/-- A ramp: in curve `c` with step `n` ADV counts with the delta `f`, and leaves the curve for `final` once `done` holds of the
counted gain, which a further delta would not undo. -/
structure Ramp (c : Curve) (n : Nat) (f : Int → Int) (cfg : EnvCfg) (done : Int → Prop) (final : Env) : Prop where
  leave : ∀ g k, done (countTick n f ⟨c, g, k, cfg⟩).gain → advNext ⟨c, g, k, cfg⟩ = final
  stay : ∀ g k, ¬ done (countTick n f ⟨c, g, k, cfg⟩).gain → advNext ⟨c, g, k, cfg⟩ = countTick n f ⟨c, g, k, cfg⟩
  keep : ∀ g, done g → done (applyDelta f g)

theorem countTick_count {n k : Nat} (h : k + 1 < n) (f : Int → Int) (c : Curve) (g : Int) (cfg : EnvCfg) :
    countTick n f ⟨c, g, k, cfg⟩ = ⟨c, g, k + 1, cfg⟩ := if_neg (Nat.not_le.mpr h)

theorem countTick_delta {n k : Nat} (h : n ≤ k + 1) (f : Int → Int) (c : Curve) (g : Int) (cfg : EnvCfg) :
    countTick n f ⟨c, g, k, cfg⟩ = ⟨c, applyDelta f g, 0, cfg⟩ := if_pos h

namespace Ramp

variable {c : Curve} {n : Nat} {f : Int → Int} {cfg : EnvCfg} {done : Int → Prop} {final : Env}
variable (hr : Ramp c n f cfg done final)
include hr

/-- Fewer than `n` calls only count. -/
theorem iterate_count {g : Int} (hg : ¬ done g) {k : Nat} (hk : k < n) : advNext^[k] ⟨c, g, 0, cfg⟩ = ⟨c, g, k, cfg⟩ := by
  induction k with
  | zero => rfl
  | succ k ih =>
    have hcount := countTick_count hk f c g cfg
    rw [Function.iterate_succ_apply', ih (Nat.lt_of_succ_lt hk), hr.stay g k (by rwa [hcount]), hcount]

/-- The `n`-th call applies the delta, to a gain that the counting calls before it have kept. -/
theorem iterate_delta (hn : 1 ≤ n) {g : Int} (hg : ¬ done g) :
    advNext^[n] ⟨c, g, 0, cfg⟩ = advNext ⟨c, g, n - 1, cfg⟩ := by
  obtain ⟨k, rfl⟩ := Nat.exists_eq_add_of_le' hn
  rw [Function.iterate_succ_apply', hr.iterate_count hg (Nat.lt_succ_self k)]
  rfl

/-- `m` times `n` calls apply `m` deltas, as long as none of them ends the curve. -/
theorem iterate_deltas (hn : 1 ≤ n) {g : Int} (m : Nat) (hm : ∀ i ≤ m, ¬ done ((applyDelta f)^[i] g)) :
    advNext^[m * n] ⟨c, g, 0, cfg⟩ = ⟨c, (applyDelta f)^[m] g, 0, cfg⟩ := by
  induction m with
  | zero => rw [Nat.zero_mul]; rfl
  | succ m ih =>
    have hcount := countTick_delta (Nat.le_add_of_sub_le (le_refl (n - 1))) f c ((applyDelta f)^[m] g) cfg
    have hnext := hm (m + 1) (le_refl _)
    rw [Function.iterate_succ_apply'] at hnext ⊢
    rw [Nat.succ_mul, Nat.add_comm, Function.iterate_add_apply, ih fun i hi => hm i (Nat.le_succ_of_le hi),
      hr.iterate_delta hn (hm m (Nat.le_succ m)), hr.stay _ _ (by rwa [hcount]), hcount]

/-- No earlier delta than one that does not end the curve ends it. -/
theorem not_done_before {g : Int} {m : Nat} (hm : ¬ done ((applyDelta f)^[m] g)) :
    ∀ i ≤ m, ¬ done ((applyDelta f)^[i] g) := by
  intro i hi hdone
  obtain ⟨j, rfl⟩ := Nat.exists_eq_add_of_le' hi
  rw [Function.iterate_add_apply] at hm
  exact hm (Function.Iterate.rec done hdone hr.keep j)

/-- If the delta after the `m`-th is the one that ends the curve, `(m + 1) * n` calls end it and no smaller number does
(R146). -/
theorem reaches (hn : 1 ≤ n) {g x : Int} {m : Nat} (hx : (applyDelta f)^[m] g = x) (hnot : ¬ done x)
    (hdone : done (applyDelta f x)) :
    advNext^[(m + 1) * n] ⟨c, g, 0, cfg⟩ = final ∧ ∀ k < (m + 1) * n, (advNext^[k] ⟨c, g, 0, cfg⟩).curve = c := by
  have hbefore := hr.not_done_before (hx ▸ hnot)
  constructor
  · have hcount := countTick_delta (Nat.le_add_of_sub_le (le_refl (n - 1))) f c x cfg
    rw [Nat.succ_mul, Nat.add_comm, Function.iterate_add_apply, hr.iterate_deltas hn m hbefore, hx,
      hr.iterate_delta hn hnot, hr.leave _ _ (by rwa [hcount])]
  · intro k hk
    have hdeltas : k / n ≤ m := Nat.lt_succ_iff.mp (Nat.div_lt_of_lt_mul (by rwa [Nat.mul_comm]))
    rw [← Nat.mod_add_div' k n, Function.iterate_add_apply,
      hr.iterate_deltas hn _ fun i hi => hbefore i (hi.trans hdeltas),
      hr.iterate_count (hbefore _ hdeltas) (Nat.mod_lt k hn)]

/-- The same of a run of ADV commands. -/
theorem advTimes_reaches (hn : 1 ≤ n) {g x : Int} {m : Nat} (hx : (applyDelta f)^[m] g = x) (hnot : ¬ done x)
    (hdone : done (applyDelta f x)) {s : State} {v : Voice} (hs : s.env[v] = some ⟨c, g, 0, cfg⟩) :
    (∃ t, advTimes v ((m + 1) * n) s = .next t ∧ t.env[v] = some final) ∧
    ∀ k, k < (m + 1) * n → ∃ u e, advTimes v k s = .next u ∧ u.env[v] = some e ∧ e.curve = c := by
  obtain ⟨hend, hstay⟩ := hr.reaches hn hx hnot hdone
  refine ⟨hend ▸ advTimes_present _ hs, fun k hk => ?_⟩
  obtain ⟨u, hu, henv⟩ := advTimes_present k hs
  exact ⟨u, _, hu, henv, hstay k hk⟩

end Ramp

/-! ### The five ramps -/

section Ramps
variable (n : Nat) (cfg : EnvCfg)

theorem ramp_attack :
    Ramp (.attack n) n (fun _ => 32) cfg (2016 ≤ ·) ⟨.decay cfg.decayStep, 2016, 0, cfg⟩ where
  leave g k h := (checkAttack_done h).trans (by rw [countTick_cfg])
  stay g k h := checkAttack_stay h
  keep g h := by simp only [applyDelta]; omega

theorem ramp_linIncr : Ramp (.linIncr n) n (fun _ => 32) cfg (2016 ≤ ·) ⟨.static 2016, 2016, 0, cfg⟩ where
  leave g k h := (checkCeiling_done h).trans (by rw [countTick_cfg])
  stay g k h := checkCeiling_stay h
  keep g h := by simp only [applyDelta]; omega

theorem ramp_bentIncr : Ramp (.bentIncr n) n bentDelta cfg (2016 ≤ ·) ⟨.static 2016, 2016, 0, cfg⟩ where
  leave g k h := (checkCeiling_done h).trans (by rw [countTick_cfg])
  stay g k h := checkCeiling_stay h
  keep g h := le_add_of_le_of_nonneg h (bentDelta_nonneg g)

theorem ramp_linDecr : Ramp (.linDecr n) n (fun _ => -32) cfg (· ≤ 0) ⟨.static 0, 0, 0, cfg⟩ where
  leave g k h := (checkFloor_done h).trans (by rw [countTick_cfg])
  stay g k h := checkFloor_stay h
  keep g h := by simp only [applyDelta]; omega

theorem ramp_expDecr : Ramp (.expDecr n) n expDelta cfg (· ≤ 0) ⟨.static 0, 0, 0, cfg⟩ where
  leave g k h := (checkFloor_done h).trans (by rw [countTick_cfg])
  stay g k h := checkFloor_stay h
  keep g h := by simp only [applyDelta, expDelta_eq]; omega

end Ramps

/-! ### Fade -/

/-- While `Fade` is above 0, each ADV lowers the gain by 8 (R141). -/
theorem iterate_advNext_fade {G : Int} {cfg : EnvCfg} (k : Nat) (h : ∀ i < k, 0 < G - 8 * (i : Int)) :
    advNext^[k] ⟨.fade, G, 0, cfg⟩ = ⟨.fade, G - 8 * k, 0, cfg⟩ := by
  induction k with
  | zero => simp
  | succ k ih =>
    have hpos := h k (Nat.lt_succ_self k)
    rw [Function.iterate_succ_apply', ih fun i hi => h i (Nat.lt_succ_of_lt hi), advNext, advEnv_fade rfl,
      if_neg (not_le.mpr hpos)]
    exact congrArg (fun g => (⟨.fade, g, 0, cfg⟩ : Env)) (by push_cast; ring)

/-- `Fade` from gain `G` answers `ceil(G / 8)` samples and is then muted (R146). -/
theorem fade_samples {s : State} {v : Voice} {G : Nat} {cfg : EnvCfg} (hs : s.env[v] = some ⟨.fade, G, 0, cfg⟩) :
    (∀ k, k < (G + 7) / 8 → ∃ u t, advTimes v k s = .next u ∧ exec (.adv v) u = .next t ∧
      t.advOut = 1#1 ++ BitVec.ofInt 16 (G - 8 * k)) ∧
    ∃ t, advTimes v ((G + 7) / 8) s = .next t ∧ t.muted v = true := by
  have hrun (k : Nat) (hk : k ≤ (G + 7) / 8) :
      ∃ u, advTimes v k s = .next u ∧ u.env[v] = some ⟨.fade, G - 8 * k, 0, cfg⟩ := by
    rw [← iterate_advNext_fade k fun i hi => by omega]
    exact advTimes_present k hs
  constructor
  · intro k hk
    obtain ⟨u, hu, henv⟩ := hrun k hk.le
    refine ⟨u, _, hu, exec_adv_present henv, ?_⟩
    rw [advEnv_fade rfl, if_neg (by simp only; omega)]
    rfl
  · obtain ⟨t, ht, henv⟩ := hrun _ (le_refl _)
    refine ⟨t, ht, ?_⟩
    rw [State.muted, henv, mutedEnv_some_iff]
    exact ⟨rfl, by simp only; omega⟩

/-! ### The statement -/

/-- Settles O27: each stepped curve is a ramp, whose last gain before its end and the delta there are named; `Fade` by its own
count. -/
theorem stepCountLaws : Obligations.StepCountLaws := by
  intro s v n cfg hn
  have hup : (applyDelta fun _ => 32)^[62] 0 = 1984 := iterate_applyDelta_const (d := 32) 62 fun _ _ => rfl
  have hdown : (applyDelta fun _ => -32)^[62] 2016 = 32 := iterate_applyDelta_const (d := -32) 62 fun _ _ => rfl
  exact ⟨(ramp_attack n cfg).advTimes_reaches hn hup (by decide) (by decide),
    (ramp_linIncr n cfg).advTimes_reaches hn hup (by decide) (by decide),
    (ramp_bentIncr n cfg).advTimes_reaches hn iterate_bentDelta (by decide) (by decide),
    (ramp_linDecr n cfg).advTimes_reaches hn hdown (by decide) (by decide),
    (ramp_expDecr n cfg).advTimes_reaches hn iterate_expDelta (by decide) (by decide),
    fun G _ hs => fade_samples hs⟩

end Sys2Proof.Machine
end

section
/-! PROOFS. The voice mixer (R171, R172, R176, R177): the bound of a voice term, the range of a saturated sum, and an enabled
TICK as one frame of both sums. Settles O31 and O32. -/
namespace Sys2Proof.Machine

open Sys2Proof

/-! ### Saturation -/

theorem sat16_eq_self {x : Int} (hlo : -32768 ≤ x) (hhi : x ≤ 32767) : sat16 x = x := by
  rw [sat16, max_eq_right hlo, min_eq_right hhi]

theorem sat16_bounds (x : Int) : -32768 ≤ sat16 x ∧ sat16 x ≤ 32767 :=
  ⟨le_min (by decide) (le_max_left _ _), min_le_left _ _⟩

/-! ### The voice term -/

@[simp] theorem voiceTerm_zero_gain (p : Config.Params) (brr : BitVec 16) (m : BitVec 8) : voiceTerm p 0 brr m = 0 := by
  simp [voiceTerm, asr, sat16]

/-- The sample scaled by a gain of the envelope, at the default shift (R171). -/
theorem scaledSample_bounds {g : Int} (hlo : 0 ≤ g) (hhi : g ≤ 2047) (brr : BitVec 16) :
    -32752 ≤ g * brr.toInt / 2048 ∧ g * brr.toInt / 2048 ≤ 32751 := by
  have hmin : g * -32768 ≤ g * brr.toInt := mul_le_mul_of_nonneg_left (BitVec.le_toInt brr) hlo
  have hmax : g * brr.toInt ≤ g * 32767 := mul_le_mul_of_nonneg_left (Int.le_of_lt_add_one brr.toInt_lt) hlo
  omega

/-- A scaled sample times a main volume, at the default shift (R171). -/
theorem scaledVolume_bounds {x : Int} (hlo : -32752 ≤ x) (hhi : x ≤ 32752) (m : BitVec 8) :
    -32752 ≤ x * m.toInt / 128 ∧ x * m.toInt / 128 ≤ 32752 := by
  have hx : |x| ≤ 32752 := abs_le.mpr ⟨hlo, hhi⟩
  have hm : |m.toInt| ≤ 128 := abs_le.mpr ⟨BitVec.le_toInt m, m.toInt_lt.le⟩
  have hprod : |x * m.toInt| ≤ 32752 * 128 := by
    rw [abs_mul]
    exact mul_le_mul hx hm (abs_nonneg _) (by decide)
  obtain ⟨hmin, hmax⟩ := abs_le.mp hprod
  omega

/-- Settles O32: the term's own saturation is idle because the scaled value stays within 16 bits. -/
theorem voiceTermIsScaledAndBounded : Obligations.VoiceTermIsScaledAndBounded := by
  intro p g brr m
  refine ⟨rfl, fun hg0 hg henv hvol => ?_, voiceTerm_zero_gain p brr m⟩
  obtain ⟨hpmin, hpmax⟩ := scaledSample_bounds hg0 hg brr
  obtain ⟨htmin, htmax⟩ := scaledVolume_bounds hpmin (by omega) m
  refine ⟨hpmin, hpmax, htmin, htmax, ?_⟩
  have hterm : voiceTerm p g brr m = sat16 (g * brr.toInt / 2048 * m.toInt / 128) := by
    rw [voiceTerm, henv, hvol]; rfl
  rw [hterm]
  exact sat16_eq_self (by omega) (by omega)

/-! ### The sums of a TICK -/

/-- A sum that starts within 16 bits stays there (R172). -/
theorem mixSum_bounds (s : State) (m : BitVec 8) (vs : List Voice) {acc : Int} (h : -32768 ≤ acc ∧ acc ≤ 32767) :
    -32768 ≤ mixSum s m vs acc ∧ mixSum s m vs acc ≤ 32767 := by
  induction vs generalizing acc with
  | nil => exact h
  | cons v vs ih => exact ih (sat16_bounds _)

/-- The term that the mixer adds for a slot: that of the sample its ADV answers, and 0 where it answers none (R172). -/
theorem voiceTerm_advSlot (p : Config.Params) (brr : BitVec 16) (m : BitVec 8) (o : Option Env) :
    voiceTerm p (advSlot o).1.gainOrZero brr m =
      match o.map advEnv with
      | some (.sample g, _) => voiceTerm p g brr m
      | _ => 0 := by
  cases o with
  | none => exact voiceTerm_zero_gain p brr m
  | some e =>
    rw [advSlot, Option.map_some]
    rcases advEnv e with ⟨g | _, e'⟩
    · rfl
    · exact voiceTerm_zero_gain p brr m

theorem exec_tick_enabled {s : State} (hopen : s.closed = false) (hroom : s.pkt.length < s.params.packetFrames) :
    exec .tick s = .next (tickEffect s) := by
  rcases execTick_cases s with ⟨hclosed, _⟩ | ⟨_, _, htick⟩ | ⟨_, hfull, _⟩
  · rw [hopen] at hclosed; cases hclosed
  · exact htick
  · exact absurd hroom (Nat.not_lt.mpr hfull)

/-- Settles O31: TICK's two sums are those of the model's loop, whose terms are read slot by slot. -/
theorem tickMixesTheVoicesInOrder : Obligations.TickMixesTheVoicesInOrder := by
  intro s hopen hroom term sum
  have hsum (m : BitVec 8) : mixSum s m voiceOrder 0 = sum m := by
    simp only [mixSum, voiceTerm_advSlot]
    rfl
  have hbounds (m : BitVec 8) : -32768 ≤ sum m ∧ sum m ≤ 32767 := by
    rw [← hsum]
    exact mixSum_bounds s m voiceOrder (by decide)
  refine ⟨advancedEnv voiceOrder s.env, ?_, fun v => ?_, and_assoc.mp ⟨hbounds s.mvolL, hbounds s.mvolR⟩⟩
  · rw [exec_tick_enabled hopen hroom, tickEffect_eq, hsum, hsum]
    rfl
  · rw [advancedEnv_voiceOrder, advSlot_snd]

end Sys2Proof.Machine
end

section
/-! PROOFS. The queue's two ends: TryReceive (R186), and CLOSE, after which nothing enters the queue any more (R187). Settles
O36 and O37. -/
namespace Sys2Proof

/-! ### The command word -/

theorem decode_close : decode (.cmd (packCmd 0xA#4 0#3 0#16)) = .ok .close := by
  simp [decode, decodeCmd]

end Sys2Proof

namespace Sys2Proof.Machine

open Sys2Proof

/-! ### Operations that always answer -/

theorem onVoice_answers {v : Nat} (hv : v < 8) {run : Voice → Result} (h : ∀ u, ∃ t, run u = .next t) :
    ∃ t, onVoice v run = .next t := by
  obtain ⟨t, ht⟩ := h ⟨v, hv⟩
  exact ⟨t, (onVoice_voice ⟨v, hv⟩ run).trans ht⟩

theorem installEnv_answers {c : Curve} (h : c.isFirst = true) (v : Voice) (cfg : EnvCfg) (s : State) :
    ∃ t, installEnv v c cfg s = .next t := by
  obtain ⟨_, _, ht⟩ := installEnv_first h v cfg s
  exact ⟨_, ht⟩

/-- TICK aside, an operation whose voice exists answers in every state: a key-on installs a first curve only (R148), and no
other operation has a condition (R187, R189, R220). -/
theorem exec_answers {i : Instr} (hv : i.voiceOk = true) (hi : i ≠ .tick) (s : State) : ∃ t, exec i s = .next t := by
  cases i with
  | tick => exact absurd rfl hi
  | wrmvoll | wrmvolr | close | pull => exact ⟨_, rfl⟩
  | wradsr | wrgain | koff | rdenvx | adv =>
    simp only [exec, execWradsr, execWrgain, execKoff, execRdenvx, execAdv]
    exact onVoice_answers (of_decide_eq_true hv) fun _ => ⟨_, rfl⟩
  | kon =>
    simp only [exec, execKon]
    exact onVoice_answers (of_decide_eq_true hv) fun u => installEnv_answers (konCurve_isFirst s.adsr[u] s.gain[u]) u _ s
  | konAttack =>
    simp only [exec, execKonAttack]
    exact onVoice_answers (of_decide_eq_true hv) fun u => installEnv_answers (adsrCurve_first _ _) u _ s
  | konDecay | konDirect | konHoldmax | konHoldzero =>
    simp only [exec, execKonDecay, execKonDirect, execKonHoldmax, execKonHoldzero]
    exact onVoice_answers (of_decide_eq_true hv) fun u => installEnv_answers (by rfl) u _ s
  | konGainsel | konLindecr | konExpdecr | konLinincr | konBentincr =>
    simp only [exec, execKonGainsel, execKonLindecr, execKonExpdecr, execKonLinincr, execKonBentincr]
    exact onVoice_answers (of_decide_eq_true hv) fun u => installEnv_answers (gainCurve_first _) u _ s

/-! ### A closed queue -/

section Closed

variable {s t : State} (hclosed : s.closed = true)
include hclosed

theorem publishEnabled_of_closed : s.publishEnabled = false := by simp [State.publishEnabled, hclosed]

theorem tickEnabled_of_closed : s.tickEnabled = false := by simp [State.tickEnabled, hclosed]

theorem exec_tick_of_closed : exec .tick s = .refused .tickAfterClose := by
  rcases execTick_cases s with ⟨_, htick⟩ | ⟨hopen, _⟩ | ⟨hopen, _⟩
  · exact htick
  · rw [hclosed] at hopen; cases hopen
  · rw [hclosed] at hopen; cases hopen

theorem publishIfDue_of_closed : publishIfDue s = s := by
  rcases publishIfDue_cases s with ⟨hdue, _⟩ | ⟨_, hsame⟩
  · rw [publishEnabled_of_closed hclosed] at hdue; cases hdue
  · exact hsame

/-- No operation of the producer reopens the queue: CLOSE sets `closed`, and the others do not write it (R39, R187). -/
theorem exec_producer_keeps_closed {i : Instr} (ha : i.agent = .producer) (h : exec i s = .next t) : t.closed = true := by
  by_cases hi : i = .close
  · subst hi; cases h; rfl
  · obtain ⟨_, _, hkeep⟩ := exec_producer_frame ha h
    exact (hkeep hi).trans hclosed

/-- A producer turn leaves a closed queue as it was, PUBLISH being disabled before its command and after it (R187). -/
theorem producerTurn_of_closed (h : takeTurn .producer s = .next t) : t.closed = true ∧ t.q = s.q := by
  have hcases := producer_next h
  rw [publishIfDue_of_closed hclosed] at hcases
  rcases hcases with ⟨_, rfl⟩ | ⟨c, b, rest, i, u, _, _, ha, he, rfl⟩ | ⟨c, b, rest, x, _, rfl⟩
  · rw [publishIfDue_of_closed hclosed]; exact ⟨hclosed, rfl⟩
  · have hu : u.closed = true := exec_producer_keeps_closed (s := { s with prodIn := rest, brrIn := b }) hclosed ha he
    obtain ⟨_, hq, _⟩ := exec_producer_frame ha he
    rw [publishIfDue_of_closed hu]
    exact ⟨hu, hq⟩
  · rw [publishIfDue_of_closed (s := recordRefusal x { s with prodIn := rest }) hclosed]
    exact ⟨hclosed, rfl⟩

/-- A step other than reset keeps the queue closed and at most takes packets from its head (R187). -/
theorem step_of_closed (hreset : s.resetDue = false) (h : step s = .next t) :
    t.closed = true ∧ ∃ k, t.q = s.q.drop k := by
  rcases step_cases h with ⟨_, rfl⟩ | ⟨ts, _, h⟩ | ⟨ts, _, rfl⟩ | ⟨k, ts, _, hk, h⟩ | ⟨d, ts, hts, _⟩
  · exact ⟨hclosed, 0, rfl⟩
  · obtain ⟨hc, hq⟩ := producerTurn_of_closed (s := { s with turns := ts }) hclosed h
    exact ⟨hc, 0, hq⟩
  · rw [publishIfDue_of_closed (s := { s with turns := ts }) hclosed]
    exact ⟨hclosed, 0, rfl⟩
  · obtain ⟨hout, hq⟩ := consumerTurn_frame hk h
    obtain ⟨_, hc, _⟩ := State.outsideConsumer_eq_iff.mp hout
    exact ⟨hc.trans hclosed, hq⟩
  · rw [resetDue_cons hts] at hreset; cases hreset

end Closed

/-! ### The statements -/

/-- Settles O36: the two shapes of the queue are TryReceive's two cases. -/
theorem tryReceiveTakesTheOldest : Obligations.TryReceiveTakesTheOldest :=
  fun _ => ⟨fun _ _ => tryReceive_cons, tryReceive_nil⟩

/-- Settles O37: while `closed` is set PUBLISH is disabled, and only PUBLISH adds to the queue; the consumer writes neither
`closed` nor the queue's tail. -/
theorem closeIsFinal : Obligations.CloseIsFinal := by
  refine ⟨decode_close, fun _ => rfl, fun s t h => ?_,
    fun s hc => ⟨publishEnabled_of_closed hc, tickEnabled_of_closed hc, exec_tick_of_closed hc⟩,
    fun s i _ ⟨hv, _⟩ hi => exec_answers hv hi s, fun s t hc hreset h => step_of_closed hc hreset h⟩
  cases h
  rfl

end Sys2Proof.Machine
end

section
/-! PROOFS. SRC_NEXT (R200): its five branches, and an underrun, whose frames are the last one damped again and again until a
packet comes (R209). Settles O42 and O46. -/
namespace Sys2Proof.Machine

open Sys2Proof

/-! ### The choice of a branch -/

theorem hasUnread_eq_true {s : State} {p : Packet} (hc : s.curPkt = some p) (hi : s.curIdx < s.params.packetFrames) :
    s.hasUnread = true := by
  simp [State.hasUnread, hc, hi]

theorem hasUnread_eq_false {s : State} (h : ∀ p, s.curPkt = some p → s.params.packetFrames ≤ s.curIdx) :
    s.hasUnread = false := by
  cases hc : s.curPkt with
  | none => simp [State.hasUnread, hc]
  | some p => simp [State.hasUnread, hc, h p hc]

/-- A frame that the packet has is no free value (R63). -/
theorem packetFrame_of_getElem? {p : Packet} {i : Nat} {f : Frame16} (h : p[i]? = some f) : packetFrame p i = f := by
  simp [packetFrame, List.getD_eq_getElem?_getD, h]

/-- The current packet stays where one of its own frames is read. -/
theorem emitted_curPkt {s : State} {p : Packet} (hc : s.curPkt = some p) (i : Nat) :
    emitted p i s = { s with curIdx := i + 1, lastFrame := toF32 (packetFrame p i) } := by
  rw [emitted, ← hc]

/-- Branch (c) (R200): an open underrun after a packet. -/
theorem srcNext_damp {s : State} (hu : s.hasUnread = false) (hq : s.q = []) (hopen : s.closed = false)
    (hp : s.curPkt ≠ none) : srcNext s = (damp s.lastFrame, { s with lastFrame := damp s.lastFrame }) := by
  rw [srcNext_empty hu hq, underrun_damp hopen hp]

/-- Branch (b) (R200): the packet at the head of the queue becomes the current one, and its frame 0 is read. -/
theorem srcNext_packet {s : State} {f : Frame16} {fs : Packet} {rest : List Packet} (hu : s.hasUnread = false)
    (hq : s.q = (f :: fs) :: rest) :
    srcNext s = (toF32 f, { s with q := rest, curPkt := some (f :: fs), curIdx := 1, lastFrame := toF32 f }) := by
  rw [srcNext_receive hu hq, emitted, packetFrame_of_getElem? (f := f) rfl]

/-- Settles O42: the branch is chosen by `hasUnread`, then by the queue, then by `closed` and `cur_pkt`. -/
theorem srcNextBranches : Obligations.SrcNextBranches := by
  refine fun s => ⟨fun p f hc hi hf => ?_, fun hread => ?_⟩
  · rw [srcNext_unread hc (hasUnread_eq_true hc hi), emitted_curPkt hc, packetFrame_of_getElem? hf]
  · have hu := hasUnread_eq_false hread
    refine ⟨fun p f fs rest hq hp => ?_, fun hq hclosed => ?_, fun hq hopen hp => srcNext_damp hu hq hopen hp,
      fun hq hopen hp => ?_⟩
    · subst hp
      exact srcNext_packet hu hq
    · rw [srcNext_empty hu hq, underrun_closed hclosed]
    · rw [srcNext_empty hu hq, underrun_none hopen hp]

/-! ### An open underrun -/

/-- The consumer has read every frame it was sent, and the queue may still receive another (R200 c, R209). -/
structure Underrun (s : State) : Prop where
  isOpen : s.closed = false
  empty : s.q = []
  fed : s.curPkt ≠ none
  read : s.params.packetFrames ≤ s.curIdx

/-- One damped frame, after which the underrun lasts: branch (c) changes `last_frame` only. -/
theorem Underrun.srcNext_eq {s : State} (h : Underrun s) :
    srcNext s = (damp s.lastFrame, { s with lastFrame := damp s.lastFrame }) :=
  srcNext_damp (hasUnread_eq_false fun _ _ => h.read) h.empty h.isOpen h.fed

theorem Underrun.srcFrames_eq {s : State} (h : Underrun s) (n : Nat) :
    srcFrames n s =
      ((List.range n).map fun k => damp^[k + 1] s.lastFrame, { s with lastFrame := damp^[n] s.lastFrame }) := by
  induction n generalizing s with
  | zero => rfl
  | succ n ih =>
    have hnext : Underrun { s with lastFrame := damp s.lastFrame } := ⟨h.isOpen, h.empty, h.fed, h.read⟩
    simp only [srcFrames, h.srcNext_eq, ih hnext, List.range_succ_eq_map, List.map_cons, List.map_map]
    rfl

/-- Settles O46: the underrun lasts through its `n` frames, and branch (b) then reads frame 0 of the packet. -/
theorem underrunDampsThenPlaysTheNewPacket : Obligations.UnderrunDampsThenPlaysTheNewPacket := by
  intro s n hopen hq hfed hread
  rw [Underrun.srcFrames_eq ⟨hopen, hq, hfed, hread⟩ n]
  refine ⟨rfl, rfl, fun f fs => ?_⟩
  have hpacket := srcNext_packet (s := { s with lastFrame := damp^[n] s.lastFrame, q := [f :: fs] })
    (hasUnread_eq_false fun _ _ => hread) rfl
  exact congrArg Prod.fst hpacket

end Sys2Proof.Machine
end

section
/-! PROOFS. CONVERT (R203): its loop as a run of SRC_NEXT calls whose frames enter the ring, and the count of those calls
(R210). Settles O47 and O48. -/
namespace Sys2Proof.Machine

open Sys2Proof

/-! ### SRC_NEXT calls in a row -/

theorem srcFrames_succ (n : Nat) (s : State) :
    srcFrames (n + 1) s = ((srcNext s).1 :: (srcFrames n (srcNext s).2).1, (srcFrames n (srcNext s).2).2) := rfl

@[simp] theorem srcFrames_length (n : Nat) (s : State) : (srcFrames n s).1.length = n := by
  induction n generalizing s with
  | zero => rfl
  | succ n ih => rw [srcFrames_succ, List.length_cons, ih]

/-- SRC_NEXT calls neither read nor write the ring. -/
theorem srcFrames_ring (n : Nat) (s : State) (r : List Frame32) :
    srcFrames n { s with ring := r } = ((srcFrames n s).1, { (srcFrames n s).2 with ring := r }) := by
  induction n generalizing s with
  | zero => rfl
  | succ n ih => rw [srcFrames_succ, srcNext_ring, ih, srcFrames_succ]

/-! ### The loop of CONVERT -/

/-- Each frame enters a ring that is not empty at one end and pushes a frame out at the other. -/
theorem drop_pushed {α : Type} {ring : List α} (h : 1 ≤ ring.length) (f : α) (fs : List α) (n : Nat) :
    (ring.drop 1 ++ [f] ++ fs).drop n = (ring ++ f :: fs).drop (n + 1) := by
  rw [Nat.add_comm, ← List.drop_drop, List.drop_append_of_le_length h, List.append_assoc, List.singleton_append]

theorem srcTimes_eq (n : Nat) {s : State} (h : 1 ≤ s.ring.length) :
    srcTimes n s = { (srcFrames n s).2 with ring := (s.ring ++ (srcFrames n s).1).drop n } := by
  induction n generalizing s with
  | zero => simp [srcTimes, srcFrames]
  | succ n ih =>
    obtain ⟨_, hring, _⟩ := srcNext_frame s
    have hlen : 1 ≤ (srcPush s).ring.length := by simp [srcPush]
    have hpush : srcPush s = { (srcNext s).2 with ring := s.ring.drop 1 ++ [(srcNext s).1] } := by
      rw [srcPush, pushRing, hring]
    rw [srcTimes_succ, ih hlen, hpush, srcFrames_ring, srcFrames_succ, ← drop_pushed h]

/-- The loop keeps the phase and the parameters. -/
theorem srcTimes_phase_params (n : Nat) (s : State) :
    (srcTimes n s).phaseNum = s.phaseNum ∧ (srcTimes n s).params = s.params := by
  refine srcTimes_keeps (P := fun t => t.phaseNum = s.phaseNum ∧ t.params = s.params) (fun t ⟨hphase, hparams⟩ => ?_) n s
    ⟨rfl, rfl⟩
  obtain ⟨hframe, _, hkept, _⟩ := srcNext_frame t
  exact ⟨hkept.trans hphase, (congrArg State.params hframe).trans hparams⟩

theorem advancePhase_eq (s : State) : advancePhase s =
    ((s.phaseNum + 32000) / s.params.hostRate, { s with phaseNum := (s.phaseNum + 32000) % s.params.hostRate }) := rfl

theorem convert_phaseNum (s : State) : (convert s).2.phaseNum = (s.phaseNum + 32000) % s.params.hostRate :=
  (srcTimes_phase_params _ _).1

theorem convert_params (s : State) : (convert s).2.params = s.params :=
  (srcTimes_phase_params _ _).2

/-- Settles O47: the loop's state is `srcTimes_eq`'s, and INTERP sees its ring, with the phase and rate the loop kept. -/
theorem convertAdvancesThenEvaluates : Obligations.ConvertAdvancesThenEvaluates := by
  intro s n r ring h
  have hstate : (convert s).2 = { r.2 with ring := ring } := srcTimes_eq n h
  have hlength : ring.length = s.ring.length := by simp [ring, r]
  refine ⟨hstate, ?_, hlength, fun hphase => Nat.div_le_div_right (by omega)⟩
  change Config.interp (convert s).2.ring (convert s).2.phaseNum (convert s).2.params.hostRate = _
  rw [convert_phaseNum, convert_params, hstate]

/-! ### The count of SRC_NEXT calls -/

/-- The numbers of SRC_NEXT calls of `k` CONVERT steps at host rate `rate`, from phase `phase` (R203, R210). -/
def pullCounts (rate : Nat) : Nat → Nat → List Nat
  | 0, _ => []
  | k + 1, phase => (phase + 32000) / rate :: pullCounts rate k ((phase + 32000) % rate)

theorem convertPulls_succ (k : Nat) (s : State) :
    convertPulls (k + 1) s =
      ((s.phaseNum + 32000) / s.params.hostRate :: (convertPulls k (convert s).2).1, (convertPulls k (convert s).2).2) := rfl

/-- The counts depend on the phase and the rate only. -/
theorem convertPulls_fst (k : Nat) (s : State) :
    (convertPulls k s).1 = pullCounts s.params.hostRate k s.phaseNum := by
  induction k generalizing s with
  | zero => rfl
  | succ k ih => rw [convertPulls_succ, ih, convert_phaseNum, convert_params, pullCounts]

theorem convertPulls_phaseNum (k : Nat) {s : State} (h : s.phaseNum < s.params.hostRate) :
    (convertPulls k s).2.phaseNum = (s.phaseNum + k * 32000) % s.params.hostRate := by
  induction k generalizing s with
  | zero => simp [convertPulls, Nat.mod_eq_of_lt h]
  | succ k ih =>
    have hnext : (convert s).2.phaseNum < (convert s).2.params.hostRate := by
      rw [convert_phaseNum, convert_params]
      exact Nat.mod_lt _ (by omega)
    rw [convertPulls_succ, ih hnext, convert_phaseNum, convert_params, Nat.mod_add_mod]
    congr 1
    omega

/-- The phase carries the remainder of each division into the next, so the quotients add up to that of the whole. -/
theorem pullCounts_sum {rate phase : Nat} (h : phase < rate) (k : Nat) :
    (pullCounts rate k phase).sum = (phase + k * 32000) / rate := by
  induction k generalizing phase with
  | zero => simp [pullCounts, Nat.div_eq_of_lt h]
  | succ k ih =>
    have hsplit : phase + (k + 1) * 32000 =
        (phase + 32000) % rate + k * 32000 + rate * ((phase + 32000) / rate) := by
      have := Nat.mod_add_div (phase + 32000) rate
      omega
    rw [pullCounts, List.sum_cons, ih (Nat.mod_lt _ (by omega)), hsplit, Nat.add_mul_div_left _ _ (by omega), Nat.add_comm]

/-- Where the rate divides 32000 the phase stays 0 and every count is the quotient. -/
theorem pullCounts_of_dvd {rate c : Nat} (h : 32000 = rate * c) (k : Nat) : pullCounts rate k 0 = List.replicate k c := by
  have hrate : 0 < rate := Nat.pos_of_ne_zero fun h0 => by simp [h0] at h
  induction k with
  | zero => rfl
  | succ k ih => rw [pullCounts, Nat.zero_add, h, Nat.mul_mod_right, Nat.mul_div_cancel_left c hrate, ih, List.replicate_succ]

/-- Settles O48: the counts are a function of the phase and the rate, computed for the four rates of R210. -/
theorem convertPullCountLaw : Obligations.ConvertPullCountLaw := by
  refine ⟨fun s k hphase hrate => ?_, fun s k hphase hrate => ?_, fun s hphase hrate => ?_, fun s hphase hrate => ?_,
    fun s k hphase hrate => ?_⟩
  · have hlt : s.phaseNum < s.params.hostRate := hphase ▸ hrate
    rw [convertPulls_fst, pullCounts_sum hlt, convertPulls_phaseNum k hlt, hphase, Nat.zero_add]
    exact ⟨rfl, rfl⟩
  · rw [convertPulls_fst, convertPulls_phaseNum k (by omega), hphase, hrate, pullCounts_of_dvd (c := 1) rfl]
    exact ⟨rfl, by omega⟩
  · rw [convertPulls_fst, hphase, hrate]; decide
  · rw [convertPulls_fst, hphase, hrate]; decide
  · rw [convertPulls_fst, hphase, hrate, pullCounts_of_dvd (c := 4) rfl]

end Sys2Proof.Machine
end

section
/-! PROOFS. PULL (R206): its values are those of its CONVERT steps (R98), and the result port is only written, so PULLs
concatenate. Settles O49. -/
namespace Sys2Proof

/-! ### The command word -/

theorem decode_pull (n : BitVec 16) : decode (.cmd (packCmd 0xB#4 0#3 n)) = .ok (.pull n) := by
  simp [decode, decodeCmd]

end Sys2Proof

namespace Sys2Proof.Machine

open Sys2Proof

/-! ### The result port is not read -/

theorem underrun_buffer (s : State) (b : List F32) :
    underrun { s with buffer := b } = ((underrun s).1, { (underrun s).2 with buffer := b }) := by
  rcases underrun_cases s with ⟨hc, h⟩ | ⟨hc, hp, h⟩ | ⟨hc, hp, h⟩ <;> rw [h]
  · exact underrun_closed (s := { s with buffer := b }) hc
  · exact underrun_damp (s := { s with buffer := b }) hc hp
  · exact underrun_none (s := { s with buffer := b }) hc hp

theorem srcNext_buffer (s : State) (b : List F32) :
    srcNext { s with buffer := b } = ((srcNext s).1, { (srcNext s).2 with buffer := b }) := by
  rcases srcNext_cases s with ⟨p, hc, hu, h⟩ | ⟨p, rest, hu, hq, h⟩ | ⟨hu, hq, h⟩ <;> rw [h]
  · exact srcNext_unread (s := { s with buffer := b }) hc hu
  · exact srcNext_receive (s := { s with buffer := b }) hu hq
  · rw [srcNext_empty (s := { s with buffer := b }) hu hq, underrun_buffer]

theorem srcTimes_buffer (n : Nat) (s : State) (b : List F32) :
    srcTimes n { s with buffer := b } = { srcTimes n s with buffer := b } := by
  induction n generalizing s with
  | zero => rfl
  | succ n ih =>
    have hpush : srcPush { s with buffer := b } = { srcPush s with buffer := b } := by
      rw [srcPush, srcNext_buffer]; rfl
    rw [srcTimes_succ, hpush, ih, srcTimes_succ]

theorem convert_buffer (s : State) (b : List F32) :
    convert { s with buffer := b } = ((convert s).1, { (convert s).2 with buffer := b }) :=
  congrArg (fun t => (interpolate t, t)) (srcTimes_buffer (advancePhase s).1 (advancePhase s).2 b)

theorem pullFrames_buffer (n : Nat) (s : State) (b : List F32) :
    pullFrames n { s with buffer := b } = ((pullFrames n s).1, { (pullFrames n s).2 with buffer := b }) := by
  induction n generalizing s with
  | zero => rfl
  | succ n ih => rw [pullFrames_succ, convert_buffer, ih, pullFrames_succ]

/-! ### The values of a PULL -/

theorem convertFrames_succ (n : Nat) (s : State) :
    convertFrames (n + 1) s =
      ((convert s).1 :: (convertFrames n (convert s).2).1, (convertFrames n (convert s).2).2) := rfl

/-- PULL's values are those of its CONVERT steps, left first (R98, R206). -/
theorem pullFrames_eq_convertFrames (n : Nat) (s : State) :
    pullFrames n s =
      ((convertFrames n s).1.flatMap fun f => [f.left, f.right], (convertFrames n s).2) := by
  induction n generalizing s with
  | zero => rfl
  | succ n ih =>
    rw [pullFrames_succ, ih, convertFrames_succ, List.flatMap_cons]
    rfl

theorem exec_pull (n : BitVec 16) (s : State) :
    exec (.pull n) s = .next { (pullFrames n.toNat s).2 with buffer := (pullFrames n.toNat s).1 } := rfl

/-- Two PULLs in a row are one of the sum (R206). -/
theorem exec_pull_add {a b : BitVec 16} (h : a.toNat + b.toNat < 65536) {s t u : State} (ha : exec (.pull a) s = .next t)
    (hb : exec (.pull b) t = .next u) : exec (.pull (a + b)) s = .next { u with buffer := t.buffer ++ u.buffer } := by
  rw [exec_pull] at ha
  cases ha
  rw [exec_pull, pullFrames_buffer] at hb
  cases hb
  rw [exec_pull, BitVec.toNat_add_of_lt h, pullFrames_add]

/-- Settles O49: the next state is `exec_pull`'s, its frame is `pullFrames_frame`. -/
theorem pullAlwaysCompletes : Obligations.PullAlwaysCompletes := by
  refine ⟨fun s n => ⟨decode_pull n, _, exec_pull n s, ?_, ?_, pullFrames_length n.toNat s, ?_, ?_⟩,
    fun s t u a b h ha hb => exec_pull_add h ha hb⟩
  · rw [pullFrames_eq_convertFrames]
  · rw [pullFrames_eq_convertFrames]
  · exact congrArg (fun t : State => { t with buffer := (pullFrames n.toNat s).1 }) (pullFrames_frame n.toNat s)
  · rintro rfl
    rfl

end Sys2Proof.Machine
end

section
/-! PROOFS. Binary32 patterns by sign and magnitude (R11): a magnitude is a significand and a scale, and a greater magnitude is
a greater absolute value. Then the conversion of a sample (R201). Settles O43. -/
namespace Sys2Proof.Machine

open Sys2Proof

/-! ### Sign and magnitude -/

/-- The exponent and fraction fields as one number. -/
def f32Mag (x : F32) : Nat := x.toNat % 2 ^ 31

theorem f32Sign_toNat (x : F32) : (f32Sign x).toNat = x.toNat / 2 ^ 31 % 2 ^ 1 := extract_toNat_eq _ _ _
theorem f32Exp_eq (x : F32) : f32Exp x = x.toNat / 2 ^ 23 % 2 ^ 8 := extract_toNat_eq _ _ _
theorem f32Frac_eq (x : F32) : f32Frac x = x.toNat / 2 ^ 0 % 2 ^ 23 := extract_toNat_eq _ _ _

theorem f32Frac_lt (x : F32) : f32Frac x < 2 ^ 23 := (x.extractLsb' 0 23).isLt

theorem f32Mag_eq_fields (x : F32) : f32Mag x = f32Exp x * 2 ^ 23 + f32Frac x := by
  rw [f32Mag, f32Exp_eq, f32Frac_eq]
  omega

theorem f32_ext {x y : F32} (hsign : f32Sign x = f32Sign y) (hmag : f32Mag x = f32Mag y) : x = y := by
  apply BitVec.eq_of_toNat_eq
  have hbit := congrArg BitVec.toNat hsign
  rw [f32Sign_toNat, f32Sign_toNat] at hbit
  unfold f32Mag at hmag
  omega

theorem f32Finite_iff_mag (x : F32) : F32Finite x ↔ f32Mag x < 0x7F800000 := by
  have hfrac := f32Frac_lt x
  rw [f32Mag_eq_fields, F32Finite]
  omega

theorem f32IsZero_iff_mag (x : F32) : f32IsZero x = true ↔ f32Mag x = 0 := by
  rw [f32Mag_eq_fields, f32IsZero, Bool.and_eq_true, beq_iff_eq, beq_iff_eq]
  omega

section PackF32
variable (sign : BitVec 1) {mag : Nat} (h : mag < 2 ^ 31)
include h

theorem packF32_toNat : (packF32 sign mag).toNat = sign.toNat * 2 ^ 31 + mag := by
  rw [packF32, append_toNat_eq, BitVec.toNat_ofNat, Nat.mod_eq_of_lt h]

theorem f32Sign_packF32 : f32Sign (packF32 sign mag) = sign := by
  apply BitVec.eq_of_toNat_eq
  rw [f32Sign_toNat, packF32_toNat sign h]
  omega

theorem f32Mag_packF32 : f32Mag (packF32 sign mag) = mag := by
  rw [f32Mag, packF32_toNat sign h]
  omega

end PackF32

/-! ### Significand and scale -/

/-- The significands and scales that patterns have: 24-bit significands, normal above the least scale (R11). -/
def Canonical (m : Nat) (e : Int) : Prop := m < 2 ^ 24 ∧ -149 ≤ e ∧ (e = -149 ∨ 2 ^ 23 ≤ m)

/-- The magnitude of a canonical significand and scale: the leading bit of a normal significand counts in the exponent field. -/
def magOf (m : Nat) (e : Int) : Nat := (e + 149).toNat * 2 ^ 23 + m

theorem f32_canonical (x : F32) : Canonical (f32Sig x) (f32Scale x) := by
  have hfrac := f32Frac_lt x
  unfold Canonical f32Sig f32Scale
  split <;> omega

theorem f32Mag_eq (x : F32) : f32Mag x = magOf (f32Sig x) (f32Scale x) := by
  rw [f32Mag_eq_fields]
  unfold magOf f32Sig f32Scale
  split <;> omega

/-- A magnitude has one significand and one scale. -/
theorem f32_sig_scale {x : F32} {m : Nat} {e : Int} (hc : Canonical m e) (h : f32Mag x = magOf m e) :
    f32Sig x = m ∧ f32Scale x = e := by
  have hx := f32_canonical x
  rw [f32Mag_eq] at h
  unfold Canonical at hc hx
  unfold magOf at h
  omega

/-! ### Values -/

theorem abs_f32Value (x : F32) : |f32Value x| = f32Sig x * (2 : ℚ) ^ f32Scale x := by
  have hsign : |(if f32Sign x = 1#1 then -1 else 1 : ℚ)| = 1 := by split <;> simp
  rw [f32Value, abs_mul, abs_mul, hsign, one_mul, Nat.abs_cast, abs_of_pos (by positivity)]

theorem f32Value_packF32 (sign : BitVec 1) {m : Nat} {e : Int} (hc : Canonical m e) (h : magOf m e < 2 ^ 31) :
    f32Value (packF32 sign (magOf m e)) = (if sign = 1#1 then -1 else 1) * (m * (2 : ℚ) ^ e) := by
  obtain ⟨hsig, hscale⟩ := f32_sig_scale hc (f32Mag_packF32 sign h)
  rw [f32Value, f32Sign_packF32 sign h, hsig, hscale, mul_assoc]

/-- A greater magnitude is a greater absolute value: at one scale by the significand, and otherwise because one scale more
outweighs the significand. -/
theorem abs_f32Value_lt {x y : F32} (h : f32Mag x < f32Mag y) : |f32Value x| < |f32Value y| := by
  obtain ⟨hxlt, hxmin, hxnorm⟩ := f32_canonical x
  obtain ⟨hylt, hymin, hynorm⟩ := f32_canonical y
  rw [f32Mag_eq, f32Mag_eq, magOf, magOf] at h
  rw [abs_f32Value, abs_f32Value]
  rcases lt_trichotomy (f32Scale x) (f32Scale y) with hlt | heq | hgt
  · have hsig : (f32Sig x : ℚ) < 2 * f32Sig y := by exact_mod_cast (by omega : f32Sig x < 2 * f32Sig y)
    have hscale : f32Scale x + 1 ≤ f32Scale y := hlt
    calc (f32Sig x : ℚ) * 2 ^ f32Scale x < 2 * f32Sig y * 2 ^ f32Scale x := by gcongr
      _ = f32Sig y * 2 ^ (f32Scale x + 1) := by rw [zpow_add_one₀ (by norm_num)]; ring
      _ ≤ f32Sig y * 2 ^ f32Scale y := by gcongr; norm_num
  · have hsig : f32Sig x < f32Sig y := by omega
    rw [heq]
    gcongr
  · omega

theorem abs_f32Value_lt_iff {x y : F32} : |f32Value x| < |f32Value y| ↔ f32Mag x < f32Mag y := by
  refine ⟨fun h => ?_, abs_f32Value_lt⟩
  rcases lt_trichotomy (f32Mag x) (f32Mag y) with hlt | heq | hgt
  · exact hlt
  · obtain ⟨hsig, hscale⟩ := f32_sig_scale (f32_canonical y) (heq.trans (f32Mag_eq y))
    rw [abs_f32Value, abs_f32Value, hsig, hscale] at h
    exact absurd h (lt_irrefl _)
  · exact absurd h (lt_asymm (abs_f32Value_lt hgt))

/-! ### Samples -/

/-- An integer of at most 24 bits, scaled within the normal range, is packed exactly: shifted up, it is a significand. -/
theorem packMagnitude_exact {n : Nat} {e : Int} (hn : n < 2 ^ 24) (hlow : -126 ≤ e) (hhigh : e ≤ 0) :
    ∃ m e', packMagnitude n e = magOf m e' ∧ Canonical m e' ∧ magOf m e' < 0x7F800000 ∧
      (m : ℚ) * 2 ^ e' = n * 2 ^ e := by
  by_cases hzero : n = 0
  · exact ⟨0, -149, by rw [packMagnitude, if_pos hzero]; rfl, by unfold Canonical; omega, by decide, by simp [hzero]⟩
  obtain ⟨k, hk⟩ : ∃ k, n.log2 + k = 23 := Nat.le.dest (Nat.le_of_lt_succ ((Nat.log2_lt hzero).mpr hn))
  have hsigLow : 2 ^ 23 ≤ n * 2 ^ k := calc
    2 ^ 23 = 2 ^ n.log2 * 2 ^ k := by rw [← Nat.pow_add, hk]
    _ ≤ n * 2 ^ k := Nat.mul_le_mul_right _ (Nat.log2_self_le hzero)
  have hsigHigh : n * 2 ^ k < 2 ^ 24 := calc
    n * 2 ^ k < 2 ^ (n.log2 + 1) * 2 ^ k := Nat.mul_lt_mul_of_pos_right Nat.lt_log2_self (Nat.two_pow_pos k)
    _ = 2 ^ 24 := by rw [← Nat.pow_add, Nat.add_right_comm, hk]
  refine ⟨n * 2 ^ k, e - k, ?_, by unfold Canonical; omega, by unfold magOf; omega, ?_⟩
  · have hscale : max (e + (n.log2 : Int) - 23) (-149) = e - k := by omega
    have hup : (e - (e - (k : Int))).toNat = k := by omega
    rw [packMagnitude, if_neg hzero]
    simp only [hscale, hup]
    rw [if_pos (by omega), magOf, min_eq_left (by omega)]
  · push_cast
    rw [zpow_sub₀ (by norm_num), zpow_natCast]
    field_simp

/-- Settles O43: the sample's magnitude is exact, and the sign bit is the sample's sign. -/
theorem sampleConversionIsExact : Obligations.SampleConversionIsExact := by
  refine ⟨fun x => ?_, fun _ => rfl, by decide, by decide, by decide, by decide, by decide⟩
  have hle : x.toInt.natAbs ≤ 32768 := by
    have := x.le_toInt
    have := x.toInt_lt
    omega
  obtain ⟨m, e, hmag, hc, hfin, hvalue⟩ :=
    packMagnitude_exact (n := x.toInt.natAbs) (e := -15) (by omega) (by omega) (by omega)
  have h31 : magOf m e < 2 ^ 31 := by omega
  rw [i16ToF32, hmag]
  refine ⟨(f32Finite_iff_mag _).mpr (by rwa [f32Mag_packF32 _ h31]), ?_⟩
  rw [f32Value_packF32 _ hc h31, hvalue]
  by_cases hneg : x.toInt < 0
  · rw [Nat.cast_natAbs, abs_of_neg hneg, if_pos hneg, if_pos rfl]
    push_cast
    ring
  · rw [Nat.cast_natAbs, abs_of_nonneg (not_lt.mp hneg), if_neg hneg, if_neg (by decide)]
    ring

end Sys2Proof.Machine
end

section
/-! PROOFS. Damping (R202): the product with DAMP as a magnitude, which rounding holds in place up to 50 units and which goes
down above. Settles O45. -/
namespace Sys2Proof.Machine

open Sys2Proof

/-! ### Rounding -/

theorem packMagnitude_le (m : Nat) (e : Int) : packMagnitude m e ≤ 0x7F800000 := by
  unfold packMagnitude
  split
  · omega
  · exact Nat.min_le_right _ _

/-- Rounding moves a number by at most half a unit (R11). -/
theorem roundShift_near (m k : Nat) :
    2 ^ k * (2 * roundShift m k) ≤ 2 * m + 2 ^ k ∧ 2 * m ≤ 2 ^ k * (2 * roundShift m k) + 2 ^ k := by
  have hdiv := Nat.div_add_mod m (2 ^ k)
  have hrest := Nat.mod_lt m (Nat.two_pow_pos k)
  unfold roundShift
  dsimp only
  split
  · rw [show 2 ^ k * (2 * (m / 2 ^ k + 1)) = 2 * (2 ^ k * (m / 2 ^ k)) + 2 * 2 ^ k by ring]
    omega
  · rw [show 2 ^ k * (2 * (m / 2 ^ k)) = 2 * (2 ^ k * (m / 2 ^ k)) by ring]
    omega

/-- A significand with more bits than its scale has room for is rounded. -/
theorem packMagnitude_round {m k : Nat} {e : Int} (hm : m ≠ 0) (hk : 0 < k)
    (hscale : max (e - k + m.log2 - 23) (-149) = e) :
    packMagnitude m (e - k) = min (magOf (roundShift m k) e) 0x7F800000 := by
  have hshift : (e - (e - (k : Int))).toNat = k := by omega
  rw [packMagnitude, if_neg hm]
  simp only [hscale, hshift]
  rw [if_neg (by omega), magOf]

theorem fmul32_finite {a b : F32} (ha : F32Finite a) (hb : F32Finite b) :
    fmul32 a b = packF32 (f32Sign a ^^^ f32Sign b) (packMagnitude (f32Sig a * f32Sig b) (f32Scale a + f32Scale b)) := by
  have hne {x : F32} (hx : F32Finite x) : (f32Exp x == 255) = false := beq_eq_false_iff_ne.mpr (Nat.ne_of_lt hx)
  simp [fmul32, f32IsNan, f32IsInf, hne ha, hne hb]

/-! ### The product with DAMP -/

/-- The magnitude of the product of DAMP and a significand at a scale; DAMP is `16609444 * 2^-24` (R202). -/
def dampedMag (m : Nat) (e : Int) : Nat := packMagnitude (m * 16609444) (e - 24)

theorem dampedMag_lt (m : Nat) (e : Int) : dampedMag m e < 2 ^ 31 :=
  Nat.lt_of_le_of_lt (packMagnitude_le _ _) (by decide)

theorem f32Sign_damp : f32Sign Config.damp = 0#1 := by decide
theorem f32Sig_damp : f32Sig Config.damp = 16609444 := by decide
theorem f32Scale_damp : f32Scale Config.damp = -24 := by decide

theorem fmul32_damp {x : F32} (h : F32Finite x) :
    fmul32 x Config.damp = packF32 (f32Sign x) (dampedMag (f32Sig x) (f32Scale x)) := by
  rw [fmul32_finite h (by decide), f32Sign_damp, f32Sig_damp, f32Scale_damp, BitVec.xor_zero, dampedMag, sub_eq_add_neg]

theorem f32Sign_fmul32_damp {x : F32} (h : F32Finite x) : f32Sign (fmul32 x Config.damp) = f32Sign x := by
  rw [fmul32_damp h, f32Sign_packF32 _ (dampedMag_lt _ _)]

theorem f32Mag_fmul32_damp {x : F32} (h : F32Finite x) :
    f32Mag (fmul32 x Config.damp) = dampedMag (f32Sig x) (f32Scale x) := by
  rw [fmul32_damp h, f32Mag_packF32 _ (dampedMag_lt _ _)]

/-- The product with DAMP is rounded at the scale it came in, or at the one below where its leading bit has moved down. -/
theorem dampedMag_cases {m : Nat} {e : Int} (hc : Canonical m e) (hm : m ≠ 0) :
    dampedMag m e = min (magOf (roundShift (m * 16609444) 24) e) 0x7F800000 ∨
    (-149 < e ∧ m * 16609444 < 2 ^ 47 ∧
      dampedMag m e = min (magOf (roundShift (m * 16609444) 23) (e - 1)) 0x7F800000) := by
  obtain ⟨hlt, hmin, hnormal⟩ := hc
  have hprod : m * 16609444 ≠ 0 := by omega
  have hlog : (m * 16609444).log2 < 48 := (Nat.log2_lt hprod).mpr (by omega)
  by_cases hsame : e = -149 ∨ 2 ^ 47 ≤ m * 16609444
  · have hscale : max (e - (24 : Nat) + ((m * 16609444).log2 : Int) - 23) (-149) = e := by
      rcases hsame with rfl | hbig
      · omega
      · have := (Nat.le_log2 (k := 47) hprod).mpr hbig
        omega
    exact .inl (packMagnitude_round (k := 24) hprod (by omega) hscale)
  · have hsmall : m * 16609444 < 2 ^ 47 := by omega
    have hscale : max (e - 1 - (23 : Nat) + ((m * 16609444).log2 : Int) - 23) (-149) = e - 1 := by
      have := (Nat.le_log2 (k := 46) hprod).mpr (by omega)
      have := (Nat.log2_lt (k := 47) hprod).mpr hsmall
      omega
    have hround := packMagnitude_round (k := 23) hprod (by omega) hscale
    rw [show e - 1 - ((23 : Nat) : Int) = e - 24 by omega] at hround
    exact .inr ⟨by omega, hsmall, hround⟩

/-- Rounding gives up to half a unit back: at 50 units or fewer that is all the product took (R202). -/
theorem dampedMag_stuck {m : Nat} {e : Int} (hc : Canonical m e) (h : magOf m e ≤ 50) : dampedMag m e = magOf m e := by
  by_cases hm : m = 0
  · obtain ⟨_, hmin, hnormal⟩ := hc
    have he : e = -149 := by omega
    subst hm he
    rfl
  unfold magOf at h
  rcases dampedMag_cases hc hm with hmag | ⟨_, _, hmag⟩
  · have hround : roundShift (m * 16609444) 24 = m := by
      have := roundShift_near (m * 16609444) 24
      omega
    rw [hmag, hround, magOf]
    omega
  · obtain ⟨_, _, hnormal⟩ := hc
    omega

/-- Above 50 units the product loses more than half a unit, and it does not reach zero (R202). -/
theorem dampedMag_decays {m : Nat} {e : Int} (hc : Canonical m e) (h : 50 < magOf m e) :
    0 < dampedMag m e ∧ dampedMag m e < magOf m e := by
  have ⟨hlt, hmin, hnormal⟩ := hc
  unfold magOf at h ⊢
  have hm : m ≠ 0 := by omega
  rcases dampedMag_cases hc hm with hmag | ⟨he, hsmall, hmag⟩
  · have hround : 0 < roundShift (m * 16609444) 24 ∧ roundShift (m * 16609444) 24 < m := by
      have := roundShift_near (m * 16609444) 24
      omega
    rw [hmag, magOf]
    omega
  · have hround : 0 < roundShift (m * 16609444) 23 ∧ roundShift (m * 16609444) 23 < 2 ^ 23 + m := by
      have := roundShift_near (m * 16609444) 23
      omega
    rw [hmag, magOf]
    omega

/-! ### Two values -/

/-- 0x00000032 is `50 * 2^-149`. -/
theorem abs_f32Value_stuck : |f32Value 0x00000032#32| = 50 * (2 : ℚ) ^ (-149 : Int) := by
  have hsig : f32Sig 0x00000032#32 = 50 := by decide
  have hscale : f32Scale 0x00000032#32 = -149 := by decide
  rw [abs_f32Value, hsig, hscale]
  norm_num

theorem f32Value_damp : f32Value Config.damp = 4152361 / 4194304 := by
  rw [f32Value, f32Sign_damp, f32Sig_damp, f32Scale_damp]
  norm_num

/-! ### The statement -/

/-- Settles O45: by magnitudes, the product stays where it is up to 50 units, and above goes down but not to zero. -/
theorem dampingDecaysWithoutReachingZero : Obligations.DampingDecaysWithoutReachingZero := by
  refine ⟨rfl, f32Value_damp, fun _ => rfl, fun x hx => ?_, by decide, by decide, by decide, by decide, by decide,
    by decide⟩
  have hsign := f32Sign_fmul32_damp hx
  have hmag := f32Mag_fmul32_damp hx
  have hstuck : f32Mag x ≤ 50 → f32Mag (fmul32 x Config.damp) = f32Mag x := fun h => by
    rw [f32Mag_eq x] at h ⊢
    rw [hmag, dampedMag_stuck (f32_canonical x) h]
  have hdecays : 50 < f32Mag x →
      0 < f32Mag (fmul32 x Config.damp) ∧ f32Mag (fmul32 x Config.damp) < f32Mag x := fun h => by
    rw [f32Mag_eq x] at h ⊢
    rw [hmag]
    exact dampedMag_decays (f32_canonical x) h
  have hbound : 50 * (2 : ℚ) ^ (-149 : Int) < |f32Value x| ↔ 50 < f32Mag x := by
    rw [← abs_f32Value_stuck]
    exact abs_f32Value_lt_iff
  refine ⟨?_, hsign, ?_, fun h => ?_, fun h => abs_f32Value_lt (hdecays (hbound.mp h)).2⟩
  · rw [f32Finite_iff_mag] at hx ⊢
    omega
  · rw [← Bool.not_eq_true, ← Bool.not_eq_true, f32IsZero_iff_mag, f32IsZero_iff_mag]
    omega
  · exact f32_ext hsign (hstuck (not_lt.mp (mt hbound.mpr (not_lt.mpr h))))

end Sys2Proof.Machine
end

section
/-! PROOFS. Silence (R251): an enabled TICK over muted voices, and the consumer before its first packet, whose ring stays all
zero until one is queued. Settles O57. -/
namespace Sys2Proof.Machine

open Sys2Proof

/-! ### A TICK over muted voices -/

/-- Muted voices add 0 to a sum, whatever the samples and the volume (R177). -/
theorem mixSum_muted {s : State} (h : ∀ v, s.muted v = true) (m : BitVec 8) (vs : List Voice) : mixSum s m vs 0 = 0 := by
  induction vs with
  | nil => rfl
  | cons v vs ih =>
    have hterm : sat16 (0 + voiceTerm s.params (advSlot s.env[v]).1.gainOrZero s.brrIn[v] m) = 0 := by
      rw [advSlot_muted (h v), AdvResult.gainOrZero, voiceTerm_zero_gain]
      rfl
    exact (congrArg (mixSum s m vs) hterm).trans ih

/-- The frame that TICK writes over muted voices is (0, 0) (R177). -/
theorem tickEffect_muted_pkt {s : State} (h : ∀ v, s.muted v = true) : (tickEffect s).pkt = s.pkt ++ [⟨0#16, 0#16⟩] := by
  rw [tickEffect_eq, mixSum_muted h, mixSum_muted h]
  rfl

theorem muted_of_absent {s : State} {v : Voice} (h : s.env[v] = none) : s.muted v = true := by
  rw [State.muted, h]; rfl

/-! ### An unfed consumer -/

/-- The frame that CONVERT makes of the all-zero ring at a phase (R205). -/
def silentFrame (p : Config.Params) (phase : Nat) : Frame32 :=
  Config.interp (List.replicate p.ringFrames Frame32.zero) phase p.hostRate

/-- What an unfed state depends on. -/
theorem State.Unfed.of_fields {s t : State} (h : s.Unfed) (hq : t.q = []) (hcur : t.curPkt = s.curPkt)
    (hring : t.ring = s.ring) (hparams : t.params = s.params) : t.Unfed := by
  obtain ⟨_, hnone, hzero⟩ := h
  exact ⟨hq, hcur.trans hnone, by rw [hring, hparams, hzero]⟩

theorem resetBlock_unfed (d : Draw) (s : State) : (resetBlock d s).Unfed := ⟨rfl, rfl, rfl⟩

section Unfed

variable {s t : State} (h : s.Unfed)
include h

theorem State.Unfed.ring_eq : s.ring = List.replicate s.params.ringFrames Frame32.zero := by
  obtain ⟨_, _, hring⟩ := h
  exact hring

/-- With no packet the second half of SRC_NEXT answers zero, open or closed (R200 d, e). -/
theorem State.Unfed.underrun_eq : underrun s = (Frame32.zero, s) := by
  obtain ⟨_, hnone, _⟩ := h
  rcases underrun_cases s with ⟨_, hu⟩ | ⟨_, hsome, _⟩ | ⟨_, _, hu⟩
  · exact hu
  · exact absurd hnone hsome
  · exact hu

theorem State.Unfed.srcTry_eq : srcTry s = (none, s) := by
  obtain ⟨hq, hnone, _⟩ := h
  exact srcTry_empty (hasUnread_eq_false (by simp [hnone])) hq

theorem State.Unfed.srcNext_eq : srcNext s = (Frame32.zero, s) := by
  rw [srcNext, h.srcTry_eq]
  exact h.underrun_eq

/-- A zero frame pushed into the all-zero ring pushes a zero frame out. -/
theorem State.Unfed.pushRing_zero (hlegal : s.params.Legal) : pushRing Frame32.zero s = s := by
  obtain ⟨_, _, _, hlen⟩ := hlegal
  have hsame : s.ring.drop 1 ++ [Frame32.zero] = s.ring := by
    rw [h.ring_eq, List.drop_replicate, ← List.replicate_succ', Nat.sub_add_cancel hlen]
  rw [pushRing, hsame]

theorem State.Unfed.srcTimes_eq (hlegal : s.params.Legal) (n : Nat) : srcTimes n s = s := by
  induction n with
  | zero => rfl
  | succ n ih => rw [srcTimes_succ, srcPush, h.srcNext_eq, h.pushRing_zero hlegal, ih]

/-- CONVERT moves the phase only, and evaluates INTERP on the all-zero ring (R203, R251). -/
theorem State.Unfed.convert_eq (hlegal : s.params.Legal) :
    convert s = (silentFrame s.params ((s.phaseNum + 32000) % s.params.hostRate),
      { s with phaseNum := (s.phaseNum + 32000) % s.params.hostRate }) := by
  have hnext : State.Unfed { s with phaseNum := (s.phaseNum + 32000) % s.params.hostRate } := h
  rw [convert, advancePhase_eq, hnext.srcTimes_eq hlegal, interpolate, hnext.ring_eq]
  rfl

/-- `n` CONVERT steps move the phase by `n * 32000`, and each evaluates INTERP on the all-zero ring (R206, R251). -/
theorem State.Unfed.convertFrames_eq (hlegal : s.params.Legal) (hphase : s.phaseNum < s.params.hostRate) (n : Nat) :
    convertFrames n s =
      ((List.range n).map fun k => silentFrame s.params ((s.phaseNum + (k + 1) * 32000) % s.params.hostRate),
        { s with phaseNum := (s.phaseNum + n * 32000) % s.params.hostRate }) := by
  induction n generalizing s with
  | zero => simp [convertFrames, Nat.mod_eq_of_lt hphase]
  | succ n ih =>
    have hshift (k : Nat) : ((s.phaseNum + 32000) % s.params.hostRate + k * 32000) % s.params.hostRate =
        (s.phaseNum + (k + 1) * 32000) % s.params.hostRate := by
      rw [Nat.mod_add_mod]
      congr 1
      omega
    have hlt : (s.phaseNum + 32000) % s.params.hostRate < s.params.hostRate := Nat.mod_lt _ (Nat.zero_lt_of_lt hphase)
    have hrest := ih (s := { s with phaseNum := (s.phaseNum + 32000) % s.params.hostRate }) h hlegal hlt
    rw [convertFrames_succ, h.convert_eq hlegal, hrest, List.range_succ_eq_map, List.map_cons, List.map_map]
    simp only [hshift, Function.comp_def, Nat.succ_eq_add_one, Nat.zero_add, Nat.one_mul]

/-- PULL from an unfed state, whole (R251). -/
theorem State.Unfed.exec_pull_eq (hlegal : s.params.Legal) (hphase : s.phaseNum < s.params.hostRate) (n : BitVec 16) :
    exec (.pull n) s = .next { s with
      phaseNum := (s.phaseNum + n.toNat * 32000) % s.params.hostRate
      buffer := (List.range n.toNat).flatMap fun k =>
        let f := silentFrame s.params ((s.phaseNum + (k + 1) * 32000) % s.params.hostRate)
        [f.left, f.right] } := by
  rw [exec_pull, pullFrames_eq_convertFrames, h.convertFrames_eq hlegal hphase, List.flatMap_map]

/-! ### Steps from an unfed state -/

/-- A PULL, from any phase, leaves the consumer unfed. -/
theorem State.Unfed.pullFrames_unfed (hlegal : s.params.Legal) (n : Nat) : (pullFrames n s).2.Unfed := by
  have hkeep := pullFrames_keeps (P := fun t => t.Unfed ∧ t.params.Legal) (fun _ ht => ht)
    (fun t ⟨ht, htl⟩ => by
      rw [srcPush, ht.srcNext_eq, ht.pushRing_zero htl]
      exact ⟨ht, htl⟩) n s ⟨h, hlegal⟩
  exact hkeep.1

/-- A part of a PULL leaves the consumer unfed: it finds no packet, and pushes zero frames only. -/
theorem State.Unfed.pullPart_unfed (hlegal : s.params.Legal) (p : Pulling) : (pullPart p s).Unfed := by
  obtain ⟨left, stage, out⟩ := p
  cases stage with
  | idle => cases left <;> exact h
  | source k =>
    cases k with
    | zero => exact h
    | succ k => rw [pullPart_source, h.srcTry_eq]; exact h
  | readClosed k =>
    simp only [pullPart, h.underrun_eq, h.pushRing_zero hlegal]
    exact h

/-- A consumer turn leaves the consumer unfed. -/
theorem State.Unfed.consumerTurn_unfed (hlegal : s.params.Legal) {k : Turn} (hk : k = .consumer ∨ k = .consumerPart)
    (hturn : takeTurn k s = .next t) : t.Unfed := by
  rcases consumer_next hk hturn with
    ⟨p, _, rfl⟩ | ⟨_, _, rfl⟩ | ⟨w, rest, n, _, _, _, ⟨_, he⟩ | ⟨_, rfl⟩⟩ | ⟨w, rest, x, _, _, rfl⟩
  · exact h.pullPart_unfed hlegal p
  · exact h
  · cases he
    exact State.Unfed.pullFrames_unfed (s := { s with consIn := rest }) h hlegal n.toNat
  · exact h
  · exact h

/-- A producer turn that leaves the queue empty has published nothing. -/
theorem State.Unfed.producerTurn_unfed {k : Turn} (hk : k = .producer ∨ k = .publish) (hturn : takeTurn k s = .next t)
    (hq : t.q = []) : t.Unfed := by
  obtain ⟨howned, _, _, _, hparams⟩ := State.outsideProducer_eq_iff.mp (producerTurn_frame hk hturn).1
  simp only [State.consumerOwned, Prod.mk.injEq] at howned
  obtain ⟨hcur, _, _, hring, _⟩ := howned
  exact h.of_fields hq hcur hring hparams

/-- Until a packet is queued the consumer stays unfed (R251). -/
theorem State.Unfed.step_unfed (hlegal : s.params.Legal) (hstep : step s = .next t) (hq : t.q = []) : t.Unfed := by
  rcases step_cases hstep with
    ⟨_, rfl⟩ | ⟨ts, _, hturn⟩ | ⟨ts, _, rfl⟩ | ⟨k, ts, _, hk, hturn⟩ | ⟨d, ts, _, rfl⟩
  · exact h
  · exact State.Unfed.producerTurn_unfed (s := { s with turns := ts }) h (.inl rfl) hturn hq
  · exact State.Unfed.producerTurn_unfed (s := { s with turns := ts }) h (.inr rfl) rfl hq
  · exact State.Unfed.consumerTurn_unfed (s := { s with turns := ts }) h hlegal hk hturn
  · exact resetBlock_unfed d _

end Unfed

/-! ### The statement -/

/-- Settles O57: after reset every envelope is absent, hence muted, and the consumer is unfed. -/
theorem afterResetTheBlockIsSilent : Obligations.AfterResetTheBlockIsSilent := by
  intro p d brr x y z hlegal s
  have habsent : ∀ v : Voice, s.env[v] = none := resetWith_env p d
  have hmuted (v : Voice) : s.muted v = true := muted_of_absent (habsent v)
  obtain ⟨hframes, _, hrate, _⟩ := hlegal
  refine ⟨fun v => ⟨⟨_, exec_rdenvx v s, State.envx_absent (habsent v)⟩, _, exec_adv_muted (hmuted v), rfl⟩,
    ⟨_, exec_tick_enabled rfl hframes, tickEffect_muted_pkt hmuted⟩, ⟨rfl, rfl, rfl⟩, hrate,
    fun u n hu hunfed hphase => hunfed.exec_pull_eq hu hphase n,
    fun u t hu hunfed hstep hq => hunfed.step_unfed hu hstep hq⟩

end Sys2Proof.Machine
end

section
/-! PROOFS. Decoding and encoding (R80 to R83, R97, R99): each is the inverse of the other, and a command word decodes exactly
where a row of the opcode table selects it (R81). Settles O1, O2, O3, O5 and O6. -/
namespace Sys2Proof

/-! ### Decoding an encoded instruction -/

theorem decode_adsr16 {v : Nat} (hv : v < 8) (w : BitVec 16) : decode (.adsr16 v w) = .ok (decodeAdsrCase v w) := if_pos hv

theorem decode_gain8 {v : Nat} (hv : v < 8) (b : BitVec 8) : decode (.gain8 v b) = .ok (decodeGainCase v b) := if_pos hv

theorem decode_tick : decode (.cmd (packCmd 0x9#4 0#3 0#16)) = .ok .tick := by
  simp [decode, decodeCmd]

/-- The ADSR16 rows read the fields back, KON.DECAY before KON.ATTACK (R99). -/
theorem decodeAdsrCase_encodeAdsr (v : Nat) (sl : BitVec 3) (sr : BitVec 5) (en : BitVec 1) (d : BitVec 3) (a : BitVec 4) :
    decodeAdsrCase v (encodeAdsr sl sr en d a) =
      if en = 1#1 then if a = 15#4 then .konDecay v sl sr d else .konAttack v sl sr d a else .konGainsel v sl sr d a := by
  simp only [decodeAdsrCase, enField_encodeAdsr, aField_encodeAdsr, slField_encodeAdsr, srField_encodeAdsr,
    dField_encodeAdsr]

theorem decodeGainCase_encodeGainDirect (v : Nat) (l : BitVec 7) :
    decodeGainCase v (encodeGainDirect l) = .konDirect v l := by
  simp [decodeGainCase]

/-- A curve byte without a parameter holds (R99, R91). -/
theorem decodeGainCase_encodeGainCurve_zero (v : Nat) (m : BitVec 2) :
    decodeGainCase v (encodeGainCurve m 0#5) =
      if m.toNat < 2 then .konHoldmax v (m.extractLsb' 0 1) else .konHoldzero v (m.extractLsb' 0 1) := by
  simp [decodeGainCase]

theorem modeLow_lsb : ∀ m : BitVec 1, (0#1 ++ m : BitVec 2).extractLsb' 0 1 = m := by decide
theorem modeHigh_lsb : ∀ m : BitVec 1, (1#1 ++ m : BitVec 2).extractLsb' 0 1 = m := by decide

theorem decode_encode {i : Instr} (h : i.WellFormed) : decode (encode i) = .ok i := by
  obtain ⟨hv, hc⟩ := h
  have hlt {v : Nat} (hv : decide (v < 8) = true) : v < 8 := of_decide_eq_true hv
  cases i with
  | wradsr v imm => exact decode_wradsr ⟨v, hlt hv⟩ imm
  | wrgain v imm => exact decode_wrgain ⟨v, hlt hv⟩ imm
  | kon v => exact decode_kon ⟨v, hlt hv⟩
  | koff v => exact decode_koff ⟨v, hlt hv⟩
  | rdenvx v => exact decode_rdenvx ⟨v, hlt hv⟩
  | wrmvoll imm => exact decode_wrmvoll imm
  | wrmvolr imm => exact decode_wrmvolr imm
  | adv v => exact decode_adv ⟨v, hlt hv⟩
  | tick => exact decode_tick
  | close => exact decode_close
  | pull n => exact decode_pull n
  | konDecay v sl sr d => rw [encode, decode_adsr16 (hlt hv), decodeAdsrCase_encodeAdsr]; rfl
  | konAttack v sl sr d a =>
    have ha : a ≠ 15#4 := bne_iff_ne.mp hc
    rw [encode, decode_adsr16 (hlt hv), decodeAdsrCase_encodeAdsr, if_pos rfl, if_neg ha]
  | konGainsel v sl sr d a => rw [encode, decode_adsr16 (hlt hv), decodeAdsrCase_encodeAdsr]; rfl
  | konDirect v l => rw [encode, decode_gain8 (hlt hv), decodeGainCase_encodeGainDirect]
  | konHoldmax v m =>
    have hm : BitVec.toNat (w := 2) (0#1 ++ m) < 2 := by rw [modeLow_toNat]; omega
    rw [encode, decode_gain8 (hlt hv), decodeGainCase_encodeGainCurve_zero, if_pos hm, modeLow_lsb]
  | konHoldzero v m =>
    have hm : ¬ BitVec.toNat (w := 2) (1#1 ++ m) < 2 := by rw [modeHigh_toNat]; omega
    rw [encode, decode_gain8 (hlt hv), decodeGainCase_encodeGainCurve_zero, if_neg hm, modeHigh_lsb]
  | konLindecr v p | konExpdecr v p | konLinincr v p | konBentincr v p =>
    have hp : p ≠ 0#5 := bne_iff_ne.mp hc
    simp [encode, decode_gain8 (hlt hv), decodeGainCase, hp]

/-- Settles O1: each row's word is taken apart into the fields it was packed from. -/
theorem decodeReadsBackEveryEncoding : Obligations.DecodeReadsBackEveryEncoding := fun _ => decode_encode

/-! ### Encoding a decoded word -/

/-- A command word whose reserved fields are 0 is packed from its other fields (R80). -/
theorem packCmd_fields {w : BitVec 32} (hz1 : z1Field w = 0#1) (hz2 : z2Field w = 0#8) :
    packCmd (opField w) (voiceField w) (dataField w) = w := by
  have h1 := congrArg BitVec.toNat hz1
  have h2 := congrArg BitVec.toNat hz2
  rw [z1Field_toNat, BitVec.toNat_ofNat] at h1
  rw [z2Field_toNat, BitVec.toNat_ofNat] at h2
  apply BitVec.eq_of_toNat_eq
  rw [packCmd_toNat, opField_toNat, voiceField_toNat, dataField_toNat]
  omega

theorem dataField_of_byte {w : BitVec 32} (h : highByteField w = 0#8) : dataField w = 0#8 ++ byteField w := by
  have hhigh := congrArg BitVec.toNat h
  rw [highByteField_toNat, BitVec.toNat_ofNat] at hhigh
  apply BitVec.eq_of_toNat_eq
  rw [byteData_toNat, byteField_toNat, dataField_toNat]
  omega

/-- What the decoder accepts as a command is a well-formed instruction's own word (R80, R81). -/
theorem decodeCmd_ok {w : BitVec 32} {i : Instr} (h : decodeCmd w = .ok i) : i.WellFormed ∧ encode i = .cmd w := by
  have hlt : decide ((voiceField w).toNat < 8) = true := decide_eq_true (voiceField w).isLt
  have hself : voiceField w = BitVec.ofNat 3 (voiceField w).toNat := by rw [BitVec.ofNat_toNat, BitVec.setWidth_eq]
  unfold decodeCmd at h
  dsimp only at h
  split at h
  case isFalse => cases h
  case isTrue hz =>
  obtain ⟨hz1, hz2⟩ := hz
  have hpack {k : Nat} {v : BitVec 3} {d : BitVec 16} (hop : (opField w).toNat = k) (hv : voiceField w = v)
      (hd : dataField w = d) : Code.cmd (packCmd (BitVec.ofNat 4 k) v d) = .cmd w := by
    rw [← hop, ← hv, ← hd, BitVec.ofNat_toNat, BitVec.setWidth_eq, packCmd_fields hz1 hz2]
  split at h
  case h_1 hop => cases h; exact ⟨⟨hlt, rfl⟩, hpack hop hself rfl⟩
  case h_12 => cases h
  all_goals
    rename_i hop
    split at h <;> cases h
  case h_2.isTrue.refl hbyte => exact ⟨⟨hlt, rfl⟩, hpack hop hself (dataField_of_byte hbyte)⟩
  case h_6.isTrue.refl hz | h_7.isTrue.refl hz =>
    obtain ⟨hvoice, hbyte⟩ := hz
    exact ⟨⟨rfl, rfl⟩, hpack hop hvoice (dataField_of_byte hbyte)⟩
  case h_9.isTrue.refl hz | h_10.isTrue.refl hz =>
    obtain ⟨hvoice, hdata⟩ := hz
    exact ⟨⟨rfl, rfl⟩, hpack hop hvoice hdata⟩
  case h_11.isTrue.refl hvoice => exact ⟨⟨rfl, rfl⟩, hpack hop hvoice rfl⟩
  case h_3.isTrue.refl hdata | h_4.isTrue.refl hdata | h_5.isTrue.refl hdata | h_8.isTrue.refl hdata =>
    exact ⟨⟨hlt, rfl⟩, hpack hop hself hdata⟩

theorem one_of_ne_zero : ∀ x : BitVec 1, x ≠ 1#1 → x = 0#1 := by decide

/-- Every ADSR word is the word of its own case (R99). -/
theorem decodeAdsrCase_encode {v : Nat} (hv : v < 8) (w : BitVec 16) :
    (decodeAdsrCase v w).WellFormed ∧ encode (decodeAdsrCase v w) = .adsr16 v w := by
  have hlt : decide (v < 8) = true := decide_eq_true hv
  have hword := encodeAdsr_fields w
  unfold decodeAdsrCase
  split
  case isTrue hen =>
    rw [hen] at hword
    split
    case isTrue ha =>
      rw [ha] at hword
      exact ⟨⟨hlt, rfl⟩, congrArg (Code.adsr16 v) hword⟩
    case isFalse ha => exact ⟨⟨hlt, bne_iff_ne.mpr ha⟩, congrArg (Code.adsr16 v) hword⟩
  case isFalse hen =>
    rw [one_of_ne_zero _ hen] at hword
    exact ⟨⟨hlt, rfl⟩, congrArg (Code.adsr16 v) hword⟩

/-- The mode is decreasing or increasing, and its low bit says which of the two (R89). -/
theorem mode_low : ∀ m : BitVec 2, m.toNat < 2 → 0#1 ++ m.extractLsb' 0 1 = m := by decide
theorem mode_high : ∀ m : BitVec 2, ¬ m.toNat < 2 → 1#1 ++ m.extractLsb' 0 1 = m := by decide
theorem mode_last : ∀ m : BitVec 2, m.toNat ≠ 0 → m.toNat ≠ 1 → m.toNat ≠ 2 → m = 3#2 := by decide

/-- Every gain byte is the byte of its own case (R99). -/
theorem decodeGainCase_encode {v : Nat} (hv : v < 8) (b : BitVec 8) :
    (decodeGainCase v b).WellFormed ∧ encode (decodeGainCase v b) = .gain8 v b := by
  have hlt : decide (v < 8) = true := decide_eq_true hv
  unfold decodeGainCase
  split
  case isTrue hdirect => exact ⟨⟨hlt, rfl⟩, congrArg (Code.gain8 v) (encodeGainDirect_fields hdirect)⟩
  case isFalse hcurve =>
  have hbyte {m : BitVec 2} {p : BitVec 5} (hm : m = modeField b) (hp : p = paramField b) :
      Code.gain8 v (encodeGainCurve m p) = .gain8 v b := by
    rw [hm, hp, encodeGainCurve_fields (Decidable.not_not.mp fun h => hcurve (one_of_ne_zero _ h))]
  split
  case isTrue hzero =>
    split
    case isTrue hm => exact ⟨⟨hlt, rfl⟩, hbyte (mode_low _ hm) hzero.symm⟩
    case isFalse hm => exact ⟨⟨hlt, rfl⟩, hbyte (mode_high _ hm) hzero.symm⟩
  case isFalse hparam =>
    have hok : (paramField b != 0#5) = true := bne_iff_ne.mpr hparam
    split
    case h_1 hm | h_2 hm | h_3 hm => exact ⟨⟨hlt, hok⟩, hbyte (BitVec.eq_of_toNat_eq hm.symm) rfl⟩
    case h_4 h0 h1 h2 => exact ⟨⟨hlt, hok⟩, hbyte (mode_last _ h0 h1 h2).symm rfl⟩

theorem encode_of_decode {c : Code} {i : Instr} (h : decode c = .ok i) : i.WellFormed ∧ encode i = c := by
  cases c with
  | cmd w => exact decodeCmd_ok h
  | adsr16 v w =>
    by_cases hv : v < 8
    · rw [decode_adsr16 hv] at h; cases h; exact decodeAdsrCase_encode hv w
    · simp [decode, hv] at h
  | gain8 v b =>
    by_cases hv : v < 8
    · rw [decode_gain8 hv] at h; cases h; exact decodeGainCase_encode hv b
    · simp [decode, hv] at h

/-- Settles O2: the accepted word's fields, its reserved ones being as the row has them, pack to the word again. -/
theorem encodeReturnsEveryDecodedWord : Obligations.EncodeReturnsEveryDecodedWord := fun _ _ => encode_of_decode

/-! ### The rows of the opcode table -/

/-- An instruction's own row selects its word (R81, R99). -/
theorem opRow_selects_encode {i : Instr} (h : i.WellFormed) : (opRow i).selects (encode i) = true := by
  cases i with
  | wradsr => exact Laws.TableRow.wradsr _ _ h
  | wrgain => exact Laws.TableRow.wrgain _ _ h
  | kon => exact Laws.TableRow.kon _ h
  | koff => exact Laws.TableRow.koff _ h
  | rdenvx => exact Laws.TableRow.rdenvx _ h
  | wrmvoll => exact Laws.TableRow.wrmvoll _ h
  | wrmvolr => exact Laws.TableRow.wrmvolr _ h
  | adv => exact Laws.TableRow.adv _ h
  | tick => exact Laws.TableRow.tick h
  | close => exact Laws.TableRow.close h
  | pull => exact Laws.TableRow.pull _ h
  | konDecay => exact Laws.TableRow.konDecay _ _ _ _ h
  | konAttack => exact Laws.TableRow.konAttack _ _ _ _ _ h
  | konGainsel => exact Laws.TableRow.konGainsel _ _ _ _ _ h
  | konDirect => exact Laws.TableRow.konDirect _ _ h
  | konHoldmax => exact Laws.TableRow.konHoldmax _ _ h
  | konHoldzero => exact Laws.TableRow.konHoldzero _ _ h
  | konLindecr => exact Laws.TableRow.konLindecr _ _ h
  | konExpdecr => exact Laws.TableRow.konExpdecr _ _ h
  | konLinincr => exact Laws.TableRow.konLinincr _ _ h
  | konBentincr => exact Laws.TableRow.konBentincr _ _ h

/-- The instruction of a row of format CMD whose operands are a word's fields. -/
def cmdOfFields (w : BitVec 32) : List Instr :=
  let v := (voiceField w).toNat
  [.wradsr v (dataField w), .wrgain v (byteField w), .kon v, .koff v, .rdenvx v, .wrmvoll (byteField w),
   .wrmvolr (byteField w), .adv v, .tick, .close, .pull (dataField w)]

theorem cmdRows_eq (w : BitVec 32) : cmdRows = (cmdOfFields w).map opRow := rfl

theorem cmdOfFields_wellFormed (w : BitVec 32) : ∀ i ∈ cmdOfFields w, i.WellFormed := by
  simp [cmdOfFields, Instr.WellFormed, Instr.voiceOk, Instr.voice?, Instr.caseOk, (voiceField w).isLt]

theorem encode_of_selects (w : BitVec 32) : ∀ i ∈ cmdOfFields w, (opRow i).selects (.cmd w) = true → encode i = .cmd w := by
  have hlt := w.isLt
  simp only [cmdOfFields, List.forall_mem_cons, List.not_mem_nil, false_implies, implies_true, and_true, opRow,
    OpRow.selects, Code.bits, encode, Code.cmd.injEq, and_F8FF0000, and_F8FFFF00, and_F8FFFFFF, and_FFFFFF00, and_FFFFFFFF,
    and_FFFF0000, beq_self_eq_true, Bool.true_and, beq_iff_eq, BitVec.toNat_eq, packCmd_toNat, byteData_toNat,
    voiceField_toNat, dataField_toNat, byteField_toNat, BitVec.toNat_ofNat]
  refine ⟨?_, ?_, ?_, ?_, ?_, ?_, ?_, ?_, ?_, ?_, ?_⟩ <;> omega

/-- A row of format CMD that selects a word is the row of an instruction that the word encodes (R81). -/
theorem row_of_selects {w : BitVec 32} {r : OpRow} (hr : r ∈ cmdRows) (h : r.selects (.cmd w) = true) :
    ∃ i, i.WellFormed ∧ encode i = .cmd w ∧ opRow i = r := by
  rw [cmdRows_eq w, List.mem_map] at hr
  obtain ⟨i, hi, rfl⟩ := hr
  exact ⟨i, cmdOfFields_wellFormed w i hi, encode_of_selects w i hi h, rfl⟩

/-- The rows of the instructions that are command words are the rows of format CMD (R81). -/
theorem opRow_mem_cmdRows {i : Instr} {w : BitVec 32} (h : encode i = .cmd w) : opRow i ∈ cmdRows := by
  cases i with
  | konDecay | konAttack | konGainsel | konDirect | konHoldmax | konHoldzero | konLindecr | konExpdecr | konLinincr
  | konBentincr => cases h
  | _ => simp [cmdRows, cmdExamples, opRow]

theorem decode_of_selects {w : BitVec 32} {r : OpRow} (hr : r ∈ cmdRows) (h : r.selects (.cmd w) = true) :
    ∃ i, decode (.cmd w) = .ok i ∧ opRow i = r := by
  obtain ⟨i, hi, hw, hrow⟩ := row_of_selects hr h
  exact ⟨i, hw ▸ decode_encode hi, hrow⟩

theorem selects_of_decode {w : BitVec 32} {i : Instr} (h : decode (.cmd w) = .ok i) :
    opRow i ∈ cmdRows ∧ (opRow i).selects (.cmd w) = true := by
  obtain ⟨hi, hw⟩ := encode_of_decode h
  exact ⟨opRow_mem_cmdRows hw, hw ▸ opRow_selects_encode hi⟩

/-- Settles O3: a row that selects the word gives the instruction the word encodes, and a word decodes to one instruction only. -/
theorem commandDecodesExactlyByTableRow : Obligations.CommandDecodesExactlyByTableRow := by
  refine fun w => ⟨⟨fun ⟨i, hi⟩ => ⟨opRow i, selects_of_decode hi⟩, fun ⟨r, hr, h⟩ => ?_⟩,
    fun i hi => ⟨(selects_of_decode hi).2, fun r hr h => ?_⟩⟩
  · obtain ⟨i, hi, _⟩ := decode_of_selects hr h
    exact ⟨i, hi⟩
  · obtain ⟨j, hj, hrow⟩ := decode_of_selects hr h
    rw [hi] at hj
    cases hj
    exact hrow.symm

/-! ### The rows of the register words -/

section AdsrRows
variable (v : Nat) (w : BitVec 16)

theorem konDecay_selects : (opRow (.konDecay 0 0 0 0)).selects (.adsr16 v w) = decide (enField w = 1#1 ∧ aField w = 15#4) := by
  simp only [OpRow.selects, opRow, Code.bits, and_8F, beq_self_eq_true, Bool.true_and, BitVec.toNat_eq, enField_toNat,
    aField_toNat, BitVec.toNat_ofNat, Bool.beq_eq_decide_eq, decide_eq_decide]
  omega

theorem konAttack_selects : (opRow (.konAttack 0 0 0 0 0)).selects (.adsr16 v w) = decide (enField w = 1#1) := by
  simp only [OpRow.selects, opRow, Code.bits, and_80, beq_self_eq_true, Bool.true_and, BitVec.toNat_eq, enField_toNat,
    BitVec.toNat_ofNat, Bool.beq_eq_decide_eq, decide_eq_decide]
  omega

theorem konGainsel_selects : (opRow (.konGainsel 0 0 0 0 0)).selects (.adsr16 v w) = decide (enField w = 0#1) := by
  simp only [OpRow.selects, opRow, Code.bits, and_80, beq_self_eq_true, Bool.true_and, BitVec.toNat_eq, enField_toNat,
    BitVec.toNat_ofNat, Bool.beq_eq_decide_eq, decide_eq_decide]
  omega

end AdsrRows

section GainRows
variable (v : Nat) (b : BitVec 8)

theorem konDirect_selects : (opRow (.konDirect 0 0)).selects (.gain8 v b) = decide (directFlag b = 0#1) := by
  simp only [OpRow.selects, opRow, Code.bits, and_80, beq_self_eq_true, Bool.true_and, BitVec.toNat_eq, directFlag_toNat,
    BitVec.toNat_ofNat, Bool.beq_eq_decide_eq, decide_eq_decide]
  omega

/-- The two hold rows leave the mode's low bit open (R99). -/
theorem hold_selects (mnemonic : String) {k : Nat} (hk : k < 2) :
    (⟨mnemonic, 8, 0xDF, 0x80 + 0x40 * k⟩ : OpRow).selects (.gain8 v b) =
      decide (directFlag b = 1#1 ∧ paramField b = 0#5 ∧ (modeField b).toNat / 2 = k) := by
  simp only [OpRow.selects, Code.bits, and_DF, beq_self_eq_true, Bool.true_and, BitVec.toNat_eq, directFlag_toNat,
    paramField_toNat, modeField_toNat, BitVec.toNat_ofNat, Bool.beq_eq_decide_eq, decide_eq_decide]
  omega

/-- The four curve rows, one per mode (R99). -/
theorem curve_selects (mnemonic : String) {k : Nat} (hk : k < 4) :
    (⟨mnemonic, 8, 0xE0, 0x80 + 0x20 * k⟩ : OpRow).selects (.gain8 v b) =
      decide (directFlag b = 1#1 ∧ (modeField b).toNat = k) := by
  simp only [OpRow.selects, Code.bits, and_E0, beq_self_eq_true, Bool.true_and, BitVec.toNat_eq, directFlag_toNat,
    modeField_toNat, BitVec.toNat_ofNat, Bool.beq_eq_decide_eq, decide_eq_decide]
  omega

theorem konHoldmax_selects : (opRow (.konHoldmax 0 0)).selects (.gain8 v b) =
    decide (directFlag b = 1#1 ∧ paramField b = 0#5 ∧ (modeField b).toNat / 2 = 0) := hold_selects v b _ (k := 0) (by decide)
theorem konHoldzero_selects : (opRow (.konHoldzero 0 0)).selects (.gain8 v b) =
    decide (directFlag b = 1#1 ∧ paramField b = 0#5 ∧ (modeField b).toNat / 2 = 1) := hold_selects v b _ (k := 1) (by decide)
theorem konLindecr_selects : (opRow (.konLindecr 0 0)).selects (.gain8 v b) =
    decide (directFlag b = 1#1 ∧ (modeField b).toNat = 0) := curve_selects v b _ (k := 0) (by decide)
theorem konExpdecr_selects : (opRow (.konExpdecr 0 0)).selects (.gain8 v b) =
    decide (directFlag b = 1#1 ∧ (modeField b).toNat = 1) := curve_selects v b _ (k := 1) (by decide)
theorem konLinincr_selects : (opRow (.konLinincr 0 0)).selects (.gain8 v b) =
    decide (directFlag b = 1#1 ∧ (modeField b).toNat = 2) := curve_selects v b _ (k := 2) (by decide)
theorem konBentincr_selects : (opRow (.konBentincr 0 0)).selects (.gain8 v b) =
    decide (directFlag b = 1#1 ∧ (modeField b).toNat = 3) := curve_selects v b _ (k := 3) (by decide)

end GainRows

/-! ### The decoding cases in file order -/

/-- The first of the three ADSR16 rows that selects a word is that of the word's case (R99). -/
theorem adsrRows_find (v : Nat) (w : BitVec 16) :
    [opRow (.konDecay 0 0 0 0), opRow (.konAttack 0 0 0 0 0), opRow (.konGainsel 0 0 0 0 0)].find?
      (fun r => r.selects (.adsr16 v w)) = some (opRow (decodeAdsrCase v w)) := by
  simp only [List.find?, konDecay_selects, konAttack_selects, konGainsel_selects]
  unfold decodeAdsrCase
  by_cases hen : enField w = 1#1
  · by_cases ha : aField w = 15#4
    · simp only [hen, ha, and_self, decide_true, if_true]; rfl
    · simp only [hen, ha, and_false, decide_false, decide_true, if_true, if_false]; rfl
  · simp only [one_of_ne_zero _ hen, BitVec.reduceEq, false_and, decide_false, decide_true, if_false]; rfl

/-- The first of the seven GAIN8 rows that selects a byte is that of the byte's case (R99). -/
theorem gainRows_find (v : Nat) (b : BitVec 8) :
    [opRow (.konDirect 0 0), opRow (.konHoldmax 0 0), opRow (.konHoldzero 0 0), opRow (.konLindecr 0 0),
     opRow (.konExpdecr 0 0), opRow (.konLinincr 0 0), opRow (.konBentincr 0 0)].find?
      (fun r => r.selects (.gain8 v b)) = some (opRow (decodeGainCase v b)) := by
  simp only [List.find?, konDirect_selects, konHoldmax_selects, konHoldzero_selects, konLindecr_selects, konExpdecr_selects,
    konLinincr_selects, konBentincr_selects]
  unfold decodeGainCase
  have hmode := (modeField b).isLt
  by_cases hdirect : directFlag b = 0#1
  · simp only [hdirect, decide_true, if_true]; rfl
  have hcurve : directFlag b = 1#1 := Decidable.not_not.mp fun h => hdirect (one_of_ne_zero _ h)
  by_cases hzero : paramField b = 0#5
  · by_cases hm : (modeField b).toNat < 2
    · have hhalf : (modeField b).toNat / 2 = 0 := by omega
      simp [hcurve, hzero, hhalf, hm, opRow]
    · have hhalf : (modeField b).toNat / 2 = 1 := by omega
      simp [hcurve, hzero, hhalf, hm, opRow]
  · obtain hm | hm | hm | hm : (modeField b).toNat = 0 ∨ (modeField b).toNat = 1 ∨ (modeField b).toNat = 2 ∨
        (modeField b).toNat = 3 := by omega
    all_goals simp [hcurve, hzero, hm, opRow]

theorem decodeAdsrCase_voice? (v : Nat) (w : BitVec 16) : (decodeAdsrCase v w).voice? = some v := by
  unfold decodeAdsrCase
  split
  · split <;> rfl
  · rfl

theorem decodeGainCase_voice? (v : Nat) (b : BitVec 8) : (decodeGainCase v b).voice? = some v := by
  unfold decodeGainCase
  split
  · rfl
  · split <;> split <;> rfl

/-- Settles O5: the decoder tests the fields that the rows' masks cover, in the rows' order. -/
theorem registerWordDecodesByFirstRow : Obligations.RegisterWordDecodesByFirstRow :=
  ⟨fun v w hv => ⟨_, decode_adsr16 hv w, decodeAdsrCase_voice? v w, adsrRows_find v w⟩,
    fun v b hv => ⟨_, decode_gain8 hv b, decodeGainCase_voice? v b, gainRows_find v b⟩⟩

/-- Settles O6: six closed words, decoded. -/
theorem specSampleWordsDecode : Obligations.SpecSampleWordsDecode := ⟨rfl, rfl, rfl, rfl, rfl, rfl⟩

end Sys2Proof
end

section
/-! PROOFS. Turns and refusals (R92, R174, R185, R189, R220, R225, R229): what an operation answers, what a turn makes of it, and
where PUBLISH stands. Settles O4, O33, O35, O38, O51, O52, O53, O54 and O56. -/
namespace Sys2Proof

theorem decodeCmd_error {w : BitVec 32} {r : Reject} (h : decodeCmd w = .error r) : r = .badCommand := by
  unfold decodeCmd at h
  dsimp only at h
  split at h
  · split at h
    case h_1 => cases h
    case h_12 => cases h; rfl
    all_goals split at h <;> cases h; rfl
  · cases h; rfl

/-- A command word that no row selects is `BadCommand` (R92). -/
theorem decode_unlisted {w : BitVec 32} (h : ∀ r ∈ cmdRows, r.selects (.cmd w) = false) :
    decode (.cmd w) = .error .badCommand := by
  cases hd : decode (.cmd w) with
  | ok i =>
    obtain ⟨hrow, hselects⟩ := selects_of_decode hd
    rw [h _ hrow] at hselects
    cases hselects
  | error r => rw [decodeCmd_error hd]

/-- TICK's word, as a number (R81). -/
theorem decode_tickWord : decode (.cmd 0x90000000#32) = .ok .tick := rfl

/-- The fields of a command word that some row selects (R81, R92). -/
theorem fields_of_encode {i : Instr} {w : BitVec 32} (h : encode i = .cmd w) :
    1 ≤ (opField w).toNat ∧ (opField w).toNat ≤ 11 ∧ z1Field w = 0#1 ∧ z2Field w = 0#8 ∧
    ((opField w).toNat ∈ [6, 7, 9, 10, 11] → voiceField w = 0#3) ∧
    ((opField w).toNat ∈ [2, 6, 7] → highByteField w = 0#8) := by
  cases i with
  | konDecay | konAttack | konGainsel | konDirect | konHoldmax | konHoldzero | konLindecr | konExpdecr | konLinincr
  | konBentincr => cases h
  | _ => cases h; simp

end Sys2Proof

namespace Sys2Proof.Machine

open Sys2Proof

/-! ### PUBLISH -/

@[simp] theorem publishIfDue_refusals (s : State) : (publishIfDue s).refusals = s.refusals := by
  rcases publishIfDue_cases s with ⟨_, h⟩ | ⟨_, h⟩ <;> rw [h]; rfl

theorem publishIfDue_disabled {s : State} (h : s.publishEnabled = false) : publishIfDue s = s := by
  rw [publishIfDue, h]; rfl

theorem publishIfDue_enabled {s : State} (h : s.publishEnabled = true) : publishIfDue s = publish s := by
  rw [publishIfDue, h]; rfl

/-- PUBLISH does not read the schedule. -/
theorem publishIfDue_turns (s : State) (ts : List Turn) :
    publishIfDue { s with turns := ts } = { publishIfDue s with turns := ts } := by
  rcases publishIfDue_cases s with ⟨he, h⟩ | ⟨he, h⟩ <;> rw [h]
  · exact publishIfDue_enabled (s := { s with turns := ts }) he
  · exact publishIfDue_disabled (s := { s with turns := ts }) he

/-! ### A producer turn -/

/-- A producer turn with a command in its port: PUBLISH where due, the command, PUBLISH where due (R12, R185). -/
theorem step_producer {s : State} {c : Code} {b : Vector (BitVec 16) 8} {rest : List Issue} (h : s.prodIn = ⟨c, b⟩ :: rest)
    (ts : List Turn) : step { s with turns := .producer :: ts } = thenPublish
      (afterCommand { publishIfDue s with turns := ts, prodIn := rest }
        (runFor .producer c { publishIfDue s with turns := ts, prodIn := rest, brrIn := b })) := by
  have hport : (publishIfDue { s with turns := ts }).prodIn = ⟨c, b⟩ :: rest := by rw [publishIfDue_prodIn]; exact h
  have hstep : step { s with turns := .producer :: ts } =
      thenPublish (runProducer (publishIfDue { s with turns := ts })) := rfl
  rw [hstep, runProducer_cons hport, publishIfDue_turns]

theorem runFor_error {c : Code} {r : Reject} (h : decode c = .error r) (a : Agent) (s : State) :
    runFor a c s = .refused (refusalOf r) := by
  unfold runFor; rw [h]

theorem afterCommand_refusalOf (s : State) (r : Reject) :
    afterCommand s (.refused (refusalOf r)) = .next (recordRefusal (refusalOf r) s) := by
  cases r <;> rfl

/-- A word that does not decode is taken off the producer's port and recorded (R227, R229). -/
theorem step_producer_error {s : State} {c : Code} {b : Vector (BitVec 16) 8} {rest : List Issue} {r : Reject}
    (h : s.prodIn = ⟨c, b⟩ :: rest) (hd : decode c = .error r) (ts : List Turn) :
    step { s with turns := .producer :: ts } = thenPublish (.next
      { publishIfDue s with turns := ts, prodIn := rest, refusals := s.refusals ++ [refusalOf r] }) := by
  rw [step_producer h, runFor_error hd, afterCommand_refusalOf, recordRefusal]
  simp only [publishIfDue_refusals]

/-! ### A consumer turn -/

theorem startFor_error {c : Code} {r : Reject} (h : decode c = .error r) (s : State) :
    startFor c s = .refused (refusalOf r) := by
  unfold startFor; rw [h]

theorem step_cons (k : Turn) (ts : List Turn) (s : State) :
    step { s with turns := k :: ts } = takeTurn k { s with turns := ts } := rfl

/-- A word that does not decode is taken off the idle consumer's port and recorded (R227, R229). -/
theorem step_consumer_error {s : State} {k : Turn} {w : BitVec 32} {rest : List (BitVec 32)} {r : Reject}
    (hk : k = .consumer ∨ k = .consumerPart) (hp : s.pulling = none) (h : s.consIn = w :: rest)
    (hd : decode (.cmd w) = .error r) (ts : List Turn) :
    step { s with turns := k :: ts } =
      .next { s with turns := ts, consIn := rest, refusals := s.refusals ++ [refusalOf r] } := by
  rw [step_cons]
  rcases hk with rfl | rfl
  · rw [takeTurn_consumer (s := { s with turns := ts }) hp h, runFor_error hd, afterCommand_refusalOf]; rfl
  · rw [takeTurn_consumerPart (s := { s with turns := ts }) hp h, startFor_error hd, afterCommand_refusalOf]; rfl

/-- Settles O4: a selected word has its row's fields, and a word that no row selects does not decode. -/
theorem unlistedCommandWordIsRefused : Obligations.UnlistedCommandWordIsRefused := by
  refine ⟨fun w hw r hr => ?_, fun w s hw => ?_⟩
  · by_contra hselects
    obtain ⟨i, _, hi, _⟩ := row_of_selects hr (eq_true_of_ne_false hselects)
    obtain ⟨hlo, hhi, hz1, hz2, hvoice, hhigh⟩ := fields_of_encode hi
    rcases hw with h | h | h | h | ⟨h, hop⟩ | ⟨h, hop⟩
    · omega
    · omega
    · exact h hz1
    · exact h hz2
    · exact h (hvoice hop)
    · exact h (hhigh hop)
  · have hd := decode_unlisted hw
    exact ⟨fun a => runFor_error hd a s, fun ts rest b hport => step_producer_error hport hd ts,
      fun t ts rest ht hp hport => step_consumer_error ht hp hport hd ts⟩

/-- Settles O54: TICK after CLOSE is refused by `exec`, the others by the decoder; a closed queue disables PUBLISH. -/
theorem refusedCommandLeavesTheBlockReady : Obligations.RefusedCommandLeavesTheBlockReady := by
  refine ⟨fun s ts c b rest r hport hd => step_producer_error hport hd ts, fun s ts b rest hport hclosed => ?_,
    fun s k ts w rest r hk hp hport hd => step_consumer_error hk hp hport hd ts⟩
  have htick : exec .tick { s with turns := ts, prodIn := rest, brrIn := b } = .refused .tickAfterClose :=
    exec_tick_of_closed hclosed
  rw [step_producer hport, publishIfDue_of_closed hclosed,
    runFor_of_decode (i := .tick) (a := .producer) decode_tickWord rfl, htick]
  exact congrArg Host.Outcome.next (publishIfDue_of_closed hclosed)

/-! ### What an operation answers -/

theorem exec_of_voice_ge {i : Instr} {v : Nat} (hv : i.voice? = some v) (h : 8 ≤ v) (s : State) :
    exec i s = .refused .voiceRange := by
  cases i with
  | wrmvoll | wrmvolr | tick | close | pull => cases hv
  | _ =>
    cases hv
    simp only [exec, execWradsr, execWrgain, execKon, execKoff, execRdenvx, execAdv, execKonDecay, execKonAttack,
      execKonGainsel, execKonDirect, execKonHoldmax, execKonHoldzero, execKonLindecr, execKonExpdecr, execKonLinincr,
      execKonBentincr]
    exact onVoice_of_ge h _

theorem voiceOk_iff (i : Instr) : i.voiceOk = true ↔ ∀ v, i.voice? = some v → v < 8 := by
  unfold Instr.voiceOk
  cases i.voice? <;> simp

/-- Everything an operation can answer: a refusal for its voice, a refusal of TICK after CLOSE, or a next state (R225). -/
theorem exec_cases (i : Instr) (s : State) :
    ((∃ v, i.voice? = some v ∧ 8 ≤ v) ∧ exec i s = .refused .voiceRange) ∨
    (i = .tick ∧ s.closed = true ∧ exec i s = .refused .tickAfterClose) ∨
    (i.voiceOk = true ∧ (i = .tick → s.closed = false) ∧ ∃ t, exec i s = .next t) := by
  by_cases hv : i.voiceOk = true
  · by_cases hi : i = .tick
    · subst hi
      rcases execTick_cases s with ⟨hc, h⟩ | ⟨hc, _, h⟩ | ⟨hc, _, h⟩
      · exact .inr (.inl ⟨rfl, hc, h⟩)
      · exact .inr (.inr ⟨rfl, fun _ => hc, _, h⟩)
      · exact .inr (.inr ⟨rfl, fun _ => hc, _, h⟩)
    · exact .inr (.inr ⟨hv, fun h => absurd h hi, exec_answers hv hi s⟩)
  · rw [voiceOk_iff] at hv
    push Not at hv
    obtain ⟨v, hv, hge⟩ := hv
    exact .inl ⟨⟨v, hv, hge⟩, exec_of_voice_ge hv hge s⟩

theorem exec_ne_fault (i : Instr) (s : State) (f : Fault) : exec i s ≠ .fault f := by
  rcases exec_cases i s with ⟨_, h⟩ | ⟨_, _, h⟩ | ⟨_, _, t, h⟩ <;> rw [h] <;> exact nofun

theorem exec_refused_iff (i : Instr) (s : State) (r : Refusal) : exec i s = .refused r ↔
    (r = .voiceRange ∧ ∃ v, i.voice? = some v ∧ 8 ≤ v) ∨ (r = .tickAfterClose ∧ i = .tick ∧ s.closed = true) := by
  constructor
  · intro hr
    rcases exec_cases i s with ⟨hv, h⟩ | ⟨hi, hc, h⟩ | ⟨_, _, t, h⟩ <;> rw [h] at hr <;> cases hr
    · exact .inl ⟨rfl, hv⟩
    · exact .inr ⟨rfl, hi, hc⟩
  · rintro (⟨rfl, v, hv, hge⟩ | ⟨rfl, rfl, hc⟩)
    · exact exec_of_voice_ge hv hge s
    · exact exec_tick_of_closed hc

/-! ### When a step stops -/

theorem thenPublish_refused_iff (r : Result) (x : Refusal) : thenPublish r = .refused x ↔ r = .refused x := by
  cases r <;> simp [thenPublish]

theorem thenPublish_ne_fault {r : Result} (h : ∀ f, r ≠ .fault f) (f : Fault) : thenPublish r ≠ .fault f := by
  cases r with
  | next => exact nofun
  | refused => exact nofun
  | fault e => exact absurd rfl (h e)

theorem afterCommand_ne_fault {r : Result} (h : ∀ f, r ≠ .fault f) (s : State) (f : Fault) : afterCommand s r ≠ .fault f := by
  unfold afterCommand
  split
  · exact nofun
  · exact nofun
  · exact nofun
  · exact h f

/-- Of the refusals that an operation or the decoder answers, a turn passes none on (R229). -/
theorem afterCommand_refused {s : State} {r : Result} {x : Refusal} (h : afterCommand s r = .refused x) :
    r = .refused x ∧ x ≠ .badCommand ∧ x ≠ .voiceRange ∧ x ≠ .tickAfterClose := by
  unfold afterCommand at h
  split at h
  · cases h
  · cases h
  · cases h
  · subst h
    refine ⟨rfl, ?_, ?_, ?_⟩ <;> rintro rfl <;> contradiction

theorem runFor_ne_fault (a : Agent) (c : Code) (s : State) (f : Fault) : runFor a c s ≠ .fault f := by
  unfold runFor
  split
  · split
    · exact exec_ne_fault _ s f
    · exact nofun
  · exact nofun

theorem startFor_ne_fault (c : Code) (s : State) (f : Fault) : startFor c s ≠ .fault f := by
  unfold startFor
  split <;> exact nofun

/-- A refusal that a code word run for an agent ends the run with: the word is the other agent's (R230). -/
theorem afterCommand_runFor_refused_iff (a : Agent) (c : Code) (s u : State) (x : Refusal) :
    afterCommand u (runFor a c s) = .refused x ↔ x = .wrongAgent ∧ ∃ i, decode c = .ok i ∧ i.agent ≠ a := by
  constructor
  · intro h
    obtain ⟨hrun, hbad, hvoice, htick⟩ := afterCommand_refused h
    unfold runFor at hrun
    split at hrun
    case h_1 i hd =>
      split at hrun
      case isTrue ha =>
        rcases (exec_refused_iff i s x).mp hrun with ⟨hx, _⟩ | ⟨hx, _⟩
        · exact absurd hx hvoice
        · exact absurd hx htick
      case isFalse ha => cases hrun; exact ⟨rfl, i, hd, ha⟩
    case h_2 r hd => cases hrun; cases r <;> contradiction
  · rintro ⟨rfl, i, hd, ha⟩
    have hrun : runFor a c s = .refused .wrongAgent := by
      unfold runFor; rw [hd]; exact if_neg ha
    rw [hrun]
    rfl

theorem afterCommand_startFor_refused_iff (c : Code) (s u : State) (x : Refusal) :
    afterCommand u (startFor c s) = .refused x ↔ x = .wrongAgent ∧ ∃ i, decode c = .ok i ∧ i.agent ≠ .consumer := by
  constructor
  · intro h
    obtain ⟨hrun, hbad, hvoice, htick⟩ := afterCommand_refused h
    unfold startFor at hrun
    split at hrun
    case h_1 => cases hrun
    case h_2 i hnot hd =>
      cases hrun
      refine ⟨rfl, i, hd, fun ha => ?_⟩
      obtain ⟨n, rfl⟩ := agent_consumer ha
      exact hnot n rfl
    case h_3 r hd => cases hrun; cases r <;> contradiction
  · rintro ⟨rfl, i, hd, ha⟩
    have hrun : startFor c s = .refused .wrongAgent := by
      unfold startFor
      rw [hd]
      cases i with
      | pull => exact absurd rfl ha
      | _ => rfl
    rw [hrun]
    rfl

theorem agent_ne_producer {a : Agent} : a ≠ .producer ↔ a = .consumer := by cases a <;> decide
theorem agent_ne_consumer {a : Agent} : a ≠ .consumer ↔ a = .producer := by cases a <;> decide

theorem producerTurn_refused_iff (s : State) (x : Refusal) : takeTurn .producer s = .refused x ↔
    x = .wrongAgent ∧ ∃ c b rest i, s.prodIn = ⟨c, b⟩ :: rest ∧ decode c = .ok i ∧ i.agent = .consumer := by
  change thenPublish (runProducer (publishIfDue s)) = _ ↔ _
  rw [thenPublish_refused_iff, ← publishIfDue_prodIn s]
  cases hport : (publishIfDue s).prodIn with
  | nil => rw [runProducer_nil hport]; simp
  | cons i rest =>
    rw [runProducer_cons hport, afterCommand_runFor_refused_iff]
    simp only [agent_ne_producer]
    exact ⟨fun ⟨hx, j, hj⟩ => ⟨hx, _, _, _, j, rfl, hj⟩, fun ⟨hx, _, _, _, j, hi, hj⟩ => by cases hi; exact ⟨hx, j, hj⟩⟩

theorem consumerTurn_refused_iff {k : Turn} (hk : k = .consumer ∨ k = .consumerPart) (s : State) (x : Refusal) :
    takeTurn k s = .refused x ↔ x = .wrongAgent ∧
      ∃ w rest i, s.pulling = none ∧ s.consIn = w :: rest ∧ decode (.cmd w) = .ok i ∧ i.agent = .producer := by
  cases hp : s.pulling with
  | some p => rw [takeTurn_pulling hk hp]; simp
  | none =>
    cases hc : s.consIn with
    | nil => rw [takeTurn_noCommand hk hp hc]; simp
    | cons w rest =>
      have hiff : takeTurn k s = .refused x ↔
          x = .wrongAgent ∧ ∃ i, decode (.cmd w) = .ok i ∧ i.agent ≠ .consumer := by
        rcases hk with rfl | rfl
        · rw [takeTurn_consumer hp hc, afterCommand_runFor_refused_iff]
        · rw [takeTurn_consumerPart hp hc, afterCommand_startFor_refused_iff]
      rw [hiff]
      simp only [agent_ne_consumer]
      exact ⟨fun ⟨hx, j, hj⟩ => ⟨hx, w, rest, j, trivial, rfl, hj⟩, fun ⟨hx, _, _, j, _, hi, hj⟩ => by cases hi; exact ⟨hx, j, hj⟩⟩

theorem takeTurn_ne_fault (k : Turn) (s : State) (f : Fault) : takeTurn k s ≠ .fault f := by
  have hconsumer {k : Turn} (hk : k = .consumer ∨ k = .consumerPart) : takeTurn k s ≠ .fault f := by
    cases hp : s.pulling with
    | some p => rw [takeTurn_pulling hk hp]; exact nofun
    | none =>
      cases hc : s.consIn with
      | nil => rw [takeTurn_noCommand hk hp hc]; exact nofun
      | cons w rest =>
        rcases hk with rfl | rfl
        · rw [takeTurn_consumer hp hc]; exact afterCommand_ne_fault (runFor_ne_fault _ _ _) _ f
        · rw [takeTurn_consumerPart hp hc]; exact afterCommand_ne_fault (startFor_ne_fault _ _) _ f
  cases k with
  | producer =>
    refine thenPublish_ne_fault (fun e => ?_) f
    cases hport : (publishIfDue s).prodIn with
    | nil => rw [runProducer_nil hport]; exact nofun
    | cons i rest => rw [runProducer_cons hport]; exact afterCommand_ne_fault (runFor_ne_fault _ _ _) _ e
  | publish | reset => exact nofun
  | consumer => exact hconsumer (.inl rfl)
  | consumerPart => exact hconsumer (.inr rfl)

theorem step_of_turns {s : State} {k : Turn} {ts : List Turn} (h : s.turns = k :: ts) :
    step s = takeTurn k { s with turns := ts } := by
  unfold step; rw [h]

theorem step_idle {s : State} (h : s.turns = []) : step s = .next s := by
  unfold step; rw [h]

theorem step_ne_fault (s : State) (f : Fault) : step s ≠ .fault f := by
  cases hts : s.turns with
  | nil => rw [step_idle hts]; exact nofun
  | cons k ts => rw [step_of_turns hts]; exact takeTurn_ne_fault k _ f

theorem step_refused_iff (s : State) (r : Refusal) : step s = .refused r ↔ r = .wrongAgent ∧
    ((∃ ts c b rest i, s.turns = .producer :: ts ∧ s.prodIn = ⟨c, b⟩ :: rest ∧ decode c = .ok i ∧ i.agent = .consumer) ∨
     (∃ t ts w rest i, s.turns = t :: ts ∧ (t = .consumer ∨ t = .consumerPart) ∧ s.pulling = none ∧ s.consIn = w :: rest ∧
       decode (.cmd w) = .ok i ∧ i.agent = .producer)) := by
  cases hts : s.turns with
  | nil => rw [step_idle hts]; simp
  | cons k ts =>
    rw [step_of_turns hts]
    cases k with
    | producer => rw [producerTurn_refused_iff]; simp
    | publish | reset => simp [takeTurn]
    | consumer => rw [consumerTurn_refused_iff (.inl rfl)]; simp
    | consumerPart => rw [consumerTurn_refused_iff (.inr rfl)]; simp

/-- Settles O53: operations by `exec_cases`, and a step by the turn it takes, which records the refusals of R225. -/
theorem operationsStopOnlyAsListed : Obligations.OperationsStopOnlyAsListed :=
  ⟨fun i s => ⟨exec_ne_fault i s, exec_refused_iff i s⟩, fun s => ⟨step_ne_fault s, step_refused_iff s⟩⟩

/-! ### The commands of the two agents -/

/-- What a turn records of a producer's command is what the command was refused with (R229). -/
theorem afterCommand_exec_refused {i : Instr} {s : State} {r : Refusal} (h : exec i s = .refused r) (u : State) :
    afterCommand u (.refused r) = .next (recordRefusal r u) := by
  rcases (exec_refused_iff i s r).mp h with ⟨rfl, _⟩ | ⟨rfl, _⟩ <;> rfl

/-- Settles O51: the turn is `step_producer`, whose command is the decoded one. -/
theorem stepRunsTheProducersCommand : Obligations.StepRunsTheProducersCommand := by
  intro s ts c b rest i hport hd ha run after
  have hafter : after = thenPublish (afterCommand { publishIfDue s with turns := ts, prodIn := rest } run) := by
    exact (step_producer hport ts).trans (by rw [runFor_of_decode hd ha])
  refine ⟨fun u hu => by rw [hafter, hu]; rfl, fun r hr => ?_, exec_ne_fault i _⟩
  rw [hafter, hr, afterCommand_exec_refused hr, recordRefusal]
  simp only [publishIfDue_refusals]
  rfl

/-- Settles O52: the turn is `exec` of the decoded command, a PULL, which is never refused. -/
theorem stepRunsTheConsumersCommand : Obligations.StepRunsTheConsumersCommand := by
  intro s ts w rest i hp hport hd ha
  rw [step_cons, takeTurn_consumer (s := { s with turns := ts }) hp hport, runFor_of_decode hd ha]
  obtain ⟨n, rfl⟩ := agent_consumer ha
  rfl

/-! ### TICK and PUBLISH -/

theorem exec_tick_full {s : State} (hopen : s.closed = false) (hfull : s.params.packetFrames ≤ s.pkt.length) :
    exec .tick s = .next (holdTick s) := by
  rcases execTick_cases s with ⟨hclosed, _⟩ | ⟨_, hroom, _⟩ | ⟨_, _, htick⟩
  · rw [hopen] at hclosed; cases hclosed
  · exact absurd hroom (Nat.not_lt.mpr hfull)
  · exact htick

theorem tickEnabled_iff (s : State) :
    s.tickEnabled = true ↔ s.pkt.length < s.params.packetFrames ∧ s.closed = false := by
  rw [State.tickEnabled, Bool.and_eq_true, decide_eq_true_iff, Bool.not_eq_true']; rfl

/-- Settles O33: the three answers of TICK, by `closed` and the room in the packet. -/
theorem tickIsRefusedOrHeldWhenNotEnabled : Obligations.TickIsRefusedOrHeldWhenNotEnabled :=
  fun s => ⟨exec_tick_of_closed, exec_tick_full, tickEnabled_iff s⟩

/-- Settles O35: PUBLISH by its enabling condition, and a producer turn as PUBLISH, the command, PUBLISH. -/
theorem publishMovesTheFullPacket : Obligations.PublishMovesTheFullPacket := by
  refine fun s => ⟨publishEnabled_iff s, publishIfDue_enabled, publishIfDue_disabled, fun _ => rfl, fun ts t h => ?_⟩
  change thenPublish (runProducer (publishIfDue { s with turns := ts })) = _
  rw [h]
  rfl

/-! ### The stall -/

theorem stalled_iff (s : State) : s.stalled = true ↔
    s.pkt.length = s.params.packetFrames ∧ s.q.length = s.params.queueCapacity ∧ s.closed = false := by
  simp [State.stalled, State.packetPending, State.queueFull, State.pktFill, and_assoc]

/-- In a stall the queue has no room, so PUBLISH is disabled (R189). -/
theorem publishEnabled_of_stalled {s : State} (h : s.stalled = true) : s.publishEnabled = false := by
  obtain ⟨_, hq, _⟩ := (stalled_iff s).mp h
  simp [State.publishEnabled, hq]

/-- TICK on an open queue is not refused. -/
theorem afterCommand_exec_tick {s : State} (hopen : s.closed = false) (u : State) :
    afterCommand u (exec .tick s) = exec .tick s := by
  rcases exec_cases .tick s with ⟨⟨_, hv, _⟩, _⟩ | ⟨_, hclosed, _⟩ | ⟨_, _, t, ht⟩
  · cases hv
  · rw [hopen] at hclosed; cases hclosed
  · rw [ht]; rfl

/-- Settles O38: in a stall PUBLISH is disabled and TICK goes back to its port; with room PUBLISH comes first. -/
theorem stallHoldsTheProducer : Obligations.StallHoldsTheProducer := by
  refine fun s ts rest b hport => ⟨fun hstall => ?_, fun hdue => ?_, fun i _ ⟨hv, _⟩ hi => exec_answers hv hi s⟩
  · obtain ⟨hfull, _, hopen⟩ := (stalled_iff s).mp hstall
    have hdisabled := publishEnabled_of_stalled hstall
    have htick : exec .tick { s with turns := ts, prodIn := rest, brrIn := b } =
        .next { s with turns := ts, brrIn := b } := by
      rw [exec_tick_full (s := { s with turns := ts, prodIn := rest, brrIn := b }) hopen hfull.ge]
      exact congrArg (fun port => Host.Outcome.next { s with turns := ts, prodIn := port, brrIn := b }) hport.symm
    rw [step_producer hport, publishIfDue_disabled hdisabled,
      runFor_of_decode (i := .tick) (a := .producer) decode_tickWord rfl, htick]
    exact congrArg Host.Outcome.next (publishIfDue_disabled hdisabled)
  · obtain ⟨_, _, hopen⟩ := (publishEnabled_iff s).mp hdue
    rw [step_producer hport, runFor_of_decode (i := .tick) (a := .producer) decode_tickWord rfl,
      publishIfDue_enabled hdue]
    exact congrArg thenPublish (afterCommand_exec_tick (s := { publish s with turns := ts, prodIn := rest, brrIn := b }) hopen _)

/-! ### Reset -/

/-- Of the moves of a slot none leaves it absent (R145). -/
theorem SlotMoves.present {i : Instr} {v : Voice} {o o' : Option Env} (h : SlotMoves i v o o') (ho : o ≠ none) :
    o' ≠ none := by
  rcases h with rfl | ⟨_, _, e, rfl, _⟩ | ⟨_, _, e, rfl, _⟩ | ⟨_, _, e, _, rfl, _⟩
  · exact ho
  all_goals exact Option.some_ne_none e

/-- Settles O56: a step other than reset moves a slot along the graph only, and leaves a closed queue closed. -/
theorem resetIsTheOnlyWayBack : Obligations.ResetIsTheOnlyWayBack := by
  refine ⟨fun _ _ _ => rfl, fun s t hreset h => ⟨fun hclosed => (step_of_closed hclosed hreset h).1, fun v hv => ?_⟩⟩
  rcases curvesFollowTheTransitionGraph.2 s t v hreset h with hsame | ⟨_, _, _, _, _, _, _, _, hmoves⟩
  · rwa [hsame]
  · exact hmoves.present hv

end Sys2Proof.Machine
end

section
/-! PROOFS. The queue over a step (R70, R185): the consumer takes from the head, PUBLISH adds full packets at the tail, at most
one before the producer's command and one after it. Settles O39. -/
namespace Sys2Proof.Machine

open Sys2Proof

/-! ### The packet under construction -/

/-- An operation keeps the packet under construction, writes one frame, or discards the packet (R173, R187). -/
theorem exec_pkt {i : Instr} {s t : State} (h : exec i s = .next t) :
    t.pkt = s.pkt ∨ (∃ f, t.pkt = s.pkt ++ [f]) ∨ t.pkt = [] := by
  cases exec_effect h with
  | tick => rw [tickEffect_eq]; exact .inr (.inl ⟨_, rfl⟩)
  | close => exact .inr (.inr rfl)
  | pull n => rw [pullFrames_frame n.toNat s]; exact .inl rfl
  | setAdsr | setGain | setMvolL | setMvolR | view | install | keyOff | advance | hold => exact .inl rfl

/-! ### The packets that a turn adds -/

/-- PUBLISH adds the full packet of a state, or nothing (R185). -/
theorem publishIfDue_added (s : State) : ∃ added, (publishIfDue s).q = s.q ++ added ∧
    ((added = [] ∧ (publishIfDue s).pkt = s.pkt) ∨
      (added = [s.pkt] ∧ s.pkt.length = s.params.packetFrames ∧ (publishIfDue s).pkt = [])) := by
  rcases publishIfDue_cases s with ⟨hdue, h⟩ | ⟨_, h⟩ <;> rw [h]
  · exact ⟨[s.pkt], rfl, .inr ⟨rfl, ((publishEnabled_iff s).mp hdue).1, rfl⟩⟩
  · exact ⟨[], (List.append_nil _).symm, .inl ⟨rfl, rfl⟩⟩

/-- What the statement asks of the packets that a step adds: full, and made of the packet under construction. -/
def MadeOfPkt (s : State) (added : List Packet) : Prop :=
  (∀ p ∈ added, p.length = s.params.packetFrames) ∧
  (added = [] ∨ added = [s.pkt] ∨ ∃ f, added = [s.pkt ++ [f]] ∨ added = [s.pkt, [f]])

theorem MadeOfPkt.nil (s : State) : MadeOfPkt s [] := ⟨nofun, .inl rfl⟩

/-- PUBLISH by itself adds nothing else. -/
theorem madeOfPkt_publishIfDue (s : State) : ∃ added, (publishIfDue s).q = s.q ++ added ∧ MadeOfPkt s added := by
  obtain ⟨added, hq, ⟨rfl, _⟩ | ⟨rfl, hfull, _⟩⟩ := publishIfDue_added s
  · exact ⟨[], hq, .nil s⟩
  · exact ⟨[s.pkt], hq, by simpa using hfull, .inr (.inl rfl)⟩

/-- PUBLISH before and after a command that has kept the packet, written one frame or discarded the packet: a packet is never
empty, so the second PUBLISH adds the packet, with the frame if one was written, or a packet of that frame alone. -/
theorem madeOfPkt_producer {s u : State} (hframes : 1 ≤ s.params.packetFrames) (hq : u.q = (publishIfDue s).q)
    (hparams : u.params = s.params) (hpkt : u.pkt = (publishIfDue s).pkt ∨ (∃ f, u.pkt = (publishIfDue s).pkt ++ [f]) ∨ u.pkt = []) :
    ∃ added, (publishIfDue u).q = s.q ++ added ∧ MadeOfPkt s added := by
  obtain ⟨a, ha, hbefore⟩ := publishIfDue_added s
  obtain ⟨b, hb, hafter⟩ := publishIfDue_added u
  refine ⟨a ++ b, by rw [hb, hq, ha, List.append_assoc], ?_⟩
  rcases hafter with ⟨rfl, _⟩ | ⟨rfl, hfull, _⟩
  · rcases hbefore with ⟨rfl, _⟩ | ⟨rfl, hfull, _⟩
    · exact .nil s
    · exact ⟨by simpa using hfull, .inr (.inl rfl)⟩
  · rw [hparams] at hfull
    have hne : u.pkt ≠ [] := fun h => by rw [h] at hfull; simp at hfull; omega
    rcases hbefore with ⟨rfl, hsame⟩ | ⟨rfl, hfull', hnil⟩
    · rw [hsame] at hpkt
      refine ⟨by simpa using hfull, ?_⟩
      rcases hpkt with h | ⟨f, h⟩ | h
      · exact .inr (.inl (by rw [h]; rfl))
      · exact .inr (.inr ⟨f, .inl (by rw [h]; rfl)⟩)
      · exact absurd h hne
    · rw [hnil] at hpkt
      refine ⟨by simpa using ⟨hfull', hfull⟩, ?_⟩
      rcases hpkt with h | ⟨f, h⟩ | h
      · exact absurd h hne
      · exact .inr (.inr ⟨f, .inr (by rw [h]; rfl)⟩)
      · exact absurd h hne

/-- A producer turn adds to the queue's tail only packets made of the packet under construction (R185). -/
theorem producerTurn_added {s t : State} (hframes : 1 ≤ s.params.packetFrames) (h : takeTurn .producer s = .next t) :
    ∃ added, t.q = s.q ++ added ∧ MadeOfPkt s added := by
  obtain ⟨_, _, _, _, hparams⟩ := State.outsideProducer_eq_iff.mp (publishIfDue_frame s).1
  rcases producer_next h with ⟨_, rfl⟩ | ⟨c, b, rest, i, u, _, _, ha, he, rfl⟩ | ⟨c, b, rest, x, _, rfl⟩
  · exact madeOfPkt_producer hframes rfl hparams (.inl rfl)
  · obtain ⟨hout, hq, _⟩ := exec_producer_frame ha he
    obtain ⟨_, _, _, _, hu⟩ := State.outsideProducer_eq_iff.mp hout
    have hpkt := exec_pkt he
    exact madeOfPkt_producer hframes hq (hu.trans hparams) hpkt
  · exact madeOfPkt_producer hframes (u := recordRefusal x { publishIfDue s with prodIn := rest }) rfl hparams (.inl rfl)

/-! ### The statement -/

/-- The queue is first in, first out from `s` to `t` (R70). -/
def Fifo (s t : State) : Prop :=
  ∃ (k : Nat) (added : List Packet), k ≤ s.q.length ∧ t.q = s.q.drop k ++ added ∧ (s.closed = true → added = []) ∧
    (k ≠ 0 → added = []) ∧ MadeOfPkt s added

/-- A queue that only grows at its tail, and not when closed. -/
theorem Fifo.of_added {s t : State} (hclosed : s.closed = true → t.q = s.q)
    (h : ∃ added, t.q = s.q ++ added ∧ MadeOfPkt s added) : Fifo s t := by
  obtain ⟨added, hq, hmade⟩ := h
  refine ⟨0, added, Nat.zero_le _, hq, fun hc => ?_, fun h => absurd rfl h, hmade⟩
  exact List.append_right_eq_self.mp (hq.symm.trans (hclosed hc))

/-- A queue that only loses packets at its head. -/
theorem Fifo.of_dropped {s t : State} (h : ∃ n, t.q = s.q.drop n) : Fifo s t := by
  obtain ⟨n, hq⟩ := h
  rcases Nat.le_total n s.q.length with hn | hn
  · exact ⟨n, [], hn, by rw [hq, List.append_nil], fun _ => rfl, fun _ => rfl, .nil s⟩
  · refine ⟨s.q.length, [], Nat.le_refl _, ?_, fun _ => rfl, fun _ => rfl, .nil s⟩
    rw [hq, List.drop_of_length_le hn, List.drop_length]
    rfl

/-- Settles O39: the producer's turns add at the tail, the consumer's take from the head, and no step does both. -/
theorem queueIsFirstInFirstOut : Obligations.QueueIsFirstInFirstOut := by
  intro s t ⟨hframes, _⟩ hreset h
  rcases step_cases h with ⟨_, rfl⟩ | ⟨ts, _, h⟩ | ⟨ts, _, rfl⟩ | ⟨k, ts, _, hk, h⟩ | ⟨d, ts, hts, _⟩
  · exact Fifo.of_dropped ⟨0, rfl⟩
  · exact Fifo.of_added (fun hclosed => (producerTurn_of_closed (s := { s with turns := ts }) hclosed h).2)
      (producerTurn_added (s := { s with turns := ts }) hframes h)
  · exact Fifo.of_added (fun hclosed => by rw [publishIfDue_of_closed (s := { s with turns := ts }) hclosed])
      (madeOfPkt_publishIfDue { s with turns := ts })
  · have hdrop := (consumerTurn_frame hk h).2
    exact Fifo.of_dropped hdrop
  · rw [resetDue_cons hts] at hreset; cases hreset

end Sys2Proof.Machine
end

section
/-! PROOFS. The invariant (R25 to R29, R33 to R37, R64, R93, R188): one ADV keeps an envelope's, the producer's operations and
PUBLISH keep the slots, the packet and the queue, the consumer's parts keep the source signal. Settles O58 and O59. -/
namespace Sys2Proof.Machine

open Sys2Proof

/-! ### One ADV -/

/-- A stepped envelope after the count: the snapshot, the step and the counter meet R29; the gain is still to be checked. -/
structure Counted (n : Nat) (e : Env) : Prop where
  cfg : CfgInv e.cfg
  curve : e.curve.step? = some n
  step : StepOk n
  counter : e.counter < n

theorem envInv_stepped_iff {e : Env} {n : Nat} (h : e.curve.step? = some n) :
    EnvInv e ↔ CfgInv e.cfg ∧ StepOk n ∧ 0 ≤ e.gain ∧ e.gain ≤ 2016 ∧ e.counter < n := by
  unfold EnvInv
  cases hc : e.curve with
  | static | fade => rw [hc] at h; cases h
  | attack | decay | sustain | linIncr | bentIncr | linDecr | expDecr =>
    rw [hc] at h
    cases h
    exact Iff.rfl

theorem envInv_static {cfg : EnvCfg} {l : Nat} (hcfg : CfgInv cfg) (hl : l ≤ 2047) : EnvInv ⟨.static l, l, 0, cfg⟩ :=
  ⟨hcfg, rfl, hl, rfl⟩

theorem EnvInv.countTick {e : Env} {n : Nat} (hinv : EnvInv e) (h : e.curve.step? = some n) (f : Int → Int) :
    Counted n (countTick n f e) := by
  obtain ⟨hcfg, hstep, _⟩ := (envInv_stepped_iff h).mp hinv
  refine ⟨by rwa [countTick_cfg], by rwa [countTick_curve], hstep, ?_⟩
  obtain ⟨hpos, _⟩ := hstep
  unfold Machine.countTick
  split
  · exact hpos
  · exact not_le.mp ‹_›

section Checks
variable {n : Nat} {e : Env} (h : Counted n e)
include h

theorem Counted.envInv (hlo : 0 ≤ e.gain) (hhi : e.gain ≤ 2016) : EnvInv e :=
  (envInv_stepped_iff h.curve).mpr ⟨h.cfg, h.step, hlo, hhi, h.counter⟩

theorem Counted.checkAttack (hlo : 0 ≤ e.gain) : EnvInv (checkAttack e) := by
  by_cases hdone : 2016 ≤ e.gain
  · rw [checkAttack_done hdone]
    have hstep := h.cfg.decayStep_ok
    exact ⟨h.cfg, hstep, by dsimp only; decide, by dsimp only; decide, hstep.1⟩
  · rw [checkAttack_stay hdone]
    exact h.envInv hlo (by omega)

theorem Counted.checkCeiling (hlo : 0 ≤ e.gain) : EnvInv (checkCeiling e) := by
  by_cases hdone : 2016 ≤ e.gain
  · rw [checkCeiling_done hdone]
    exact envInv_static h.cfg (by decide)
  · rw [checkCeiling_stay hdone]
    exact h.envInv hlo (by omega)

theorem Counted.checkFloor (hhi : e.gain ≤ 2016) : EnvInv (checkFloor e) := by
  by_cases hdone : e.gain ≤ 0
  · rw [checkFloor_done hdone]
    exact envInv_static h.cfg (by decide)
  · rw [checkFloor_stay hdone]
    exact h.envInv (by omega) hhi

theorem Counted.checkDecay (hlo : 0 ≤ e.gain) (hhi : e.gain ≤ 2016) : EnvInv (checkDecay e) := by
  unfold Machine.checkDecay
  split
  · split
    case h_1 m hm =>
      have hstep := h.cfg.srStep_ok hm
      exact ⟨h.cfg, hstep, hlo, hhi, hstep.1⟩
    case h_2 => exact envInv_static h.cfg h.cfg.sustainLevel_le
  · exact h.envInv hlo hhi

end Checks

/-- One ADV keeps the invariant of an envelope (R29). -/
theorem EnvInv.advEnv {e : Env} (hinv : EnvInv e) : EnvInv (advEnv e).2 := by
  obtain ⟨c, g, k, cfg⟩ := e
  cases c with
  | static l => exact hinv
  | fade =>
    obtain ⟨hcfg, hlo, hhi, hk⟩ := hinv
    rw [advEnv_fade rfl]
    dsimp only at hlo hhi ⊢
    split
    · exact ⟨hcfg, hlo, hhi, hk⟩
    · exact ⟨hcfg, by dsimp only; omega, by dsimp only; omega, hk⟩
  | attack n =>
    have hrise := le_countedGain_rising (e := ⟨.attack n, g, k, cfg⟩) (.inl rfl)
    exact (hinv.countTick rfl _).checkAttack ((hinv.stepped rfl).1.trans hrise)
  | linIncr n =>
    have hrise := le_countedGain_rising (e := ⟨.linIncr n, g, k, cfg⟩) (.inr (.inl rfl))
    exact (hinv.countTick rfl _).checkCeiling ((hinv.stepped rfl).1.trans hrise)
  | bentIncr n =>
    have hrise := le_countedGain_rising (e := ⟨.bentIncr n, g, k, cfg⟩) (.inr (.inr rfl))
    exact (hinv.countTick rfl _).checkCeiling ((hinv.stepped rfl).1.trans hrise)
  | decay n =>
    obtain ⟨hlo, hhi⟩ := hinv.stepped (n := n) rfl
    obtain ⟨hlo', hfall⟩ := countedGain_exp_bounds (e := ⟨.decay n, g, k, cfg⟩) (.inl rfl) hlo
    exact (hinv.countTick rfl _).checkDecay hlo' (hfall.trans hhi)
  | sustain n =>
    obtain ⟨hlo, hhi⟩ := hinv.stepped (n := n) rfl
    have hfall := countedGain_falling_le (e := ⟨.sustain n, g, k, cfg⟩) (.inl rfl) hlo
    exact (hinv.countTick rfl _).checkFloor (hfall.trans hhi)
  | linDecr n =>
    obtain ⟨hlo, hhi⟩ := hinv.stepped (n := n) rfl
    have hfall := countedGain_falling_le (e := ⟨.linDecr n, g, k, cfg⟩) (.inr (.inl rfl)) hlo
    exact (hinv.countTick rfl _).checkFloor (hfall.trans hhi)
  | expDecr n =>
    obtain ⟨hlo, hhi⟩ := hinv.stepped (n := n) rfl
    have hfall := countedGain_falling_le (e := ⟨.expDecr n, g, k, cfg⟩) (.inr (.inr rfl)) hlo
    exact (hinv.countTick rfl _).checkFloor (hfall.trans hhi)

/-! ### Slots -/

/-- An envelope, if the slot holds one, meets the invariant. -/
def SlotInv (o : Option Env) : Prop := ∀ e, o = some e → EnvInv e

theorem SlotInv.advSlot {o : Option Env} (h : SlotInv o) : SlotInv (advSlot o).2 := by
  intro e' he
  rw [advSlot_snd, Option.map_eq_some_iff] at he
  obtain ⟨e, he, rfl⟩ := he
  exact (h e he).advEnv

/-- KOFF keeps a gain that any curve may have, and counter 0 (R131). -/
theorem EnvInv.keyOff {e : Env} (h : EnvInv e) : EnvInv { e with curve := .fade, counter := 0 } := by
  have hcfg := h.1
  cases hc : e.curve with
  | static l =>
    obtain ⟨hgain, hle⟩ := h.static hc
    exact ⟨hcfg, by dsimp only; omega, by dsimp only; omega, rfl⟩
  | fade =>
    obtain ⟨_, hfade⟩ := h
    rw [hc] at hfade
    obtain ⟨hlo, hhi, _⟩ := hfade
    exact ⟨hcfg, hlo, hhi, rfl⟩
  | attack n | decay n | sustain n | linIncr n | bentIncr n | linDecr n | expDecr n =>
    obtain ⟨hlo, hhi⟩ := h.stepped (n := n) (by rw [hc]; rfl)
    exact ⟨hcfg, by dsimp only; omega, by dsimp only; omega, rfl⟩

theorem SlotInv.keyOffSlot {o : Option Env} (h : SlotInv o) : SlotInv (keyOffSlot o) := by
  intro e' he
  cases o with
  | none => cases he
  | some e => cases he; exact (h e rfl).keyOff

theorem SlotInv.setEnv {s : State} (h : ∀ v : Voice, SlotInv s.env[v]) {u : Voice} {o : Option Env} (ho : SlotInv o)
    (v : Voice) : SlotInv (s.setEnv u o).env[v] := by
  rw [State.setEnv_get]
  split
  · exact ho
  · exact h v

/-- An operation that answers keeps every slot's invariant (R29). -/
theorem exec_slotInv {i : Instr} {s t : State} (h : ∀ v : Voice, SlotInv s.env[v]) (he : exec i s = .next t) (v : Voice) :
    SlotInv t.env[v] := by
  cases exec_effect he with
  | install i u c g sl sr d _ _ hc hg =>
    exact SlotInv.setEnv h (fun e he => by cases he; exact fresh_envInv hc hg sl sr d) v
  | keyOff u => exact SlotInv.setEnv h (h u).keyOffSlot v
  | advance u => exact SlotInv.setEnv h (h u).advSlot v
  | tick =>
    rw [tickEffect_eq, advancedEnv_voiceOrder]
    exact (h v).advSlot
  | pull n => rw [pullFrames_frame n.toNat s]; exact h v
  | setAdsr | setGain | setMvolL | setMvolR | view | hold | close => exact h v

/-! ### The producer -/

theorem hasUnread_congr {s t : State} (hcur : t.curPkt = s.curPkt) (hidx : t.curIdx = s.curIdx)
    (hparams : t.params = s.params) : t.hasUnread = s.hasUnread := by
  rw [State.hasUnread, hcur, hidx, hparams]; rfl

theorem PullInv.congr {s t : State} {p : Pulling} (hunread : t.hasUnread = s.hasUnread) (h : PullInv s p) : PullInv t p := by
  unfold PullInv at h ⊢
  rwa [hunread]

/-- The producer's part of the invariant: the slots, the packet, the queue and the ENVX result. -/
structure ProducerInv (s : State) : Prop where
  env : ∀ v : Voice, SlotInv s.env[v]
  pkt : s.pkt.length ≤ s.params.packetFrames
  pktClosed : s.closed = true → s.pkt = []
  qLength : s.q.length ≤ s.params.queueCapacity
  qPackets : ∀ p ∈ s.q, p.length = s.params.packetFrames
  envxOut : s.envxOut.toNat ≤ 127

theorem State.Inv.producerInv {s : State} (h : s.Inv) : ProducerInv s :=
  ⟨h.env, h.pkt, h.pktClosed, h.qLength, h.qPackets, h.envxOut⟩

/-- The input ports, the schedule and the record of refusals are no part of it. -/
theorem ProducerInv.withPorts {s : State} (h : ProducerInv s) (prodIn : List Issue) (brrIn : Vector (BitVec 16) 8)
    (turns : List Turn) (refusals : List Refusal) :
    ProducerInv { s with prodIn := prodIn, brrIn := brrIn, turns := turns, refusals := refusals } :=
  ⟨h.env, h.pkt, h.pktClosed, h.qLength, h.qPackets, h.envxOut⟩

/-- What the producer does not write keeps the rest of the invariant (R39). -/
theorem State.Inv.of_producer {s t : State} (h : s.Inv) (hout : t.outsideProducer = s.outsideProducer) (hp : ProducerInv t) :
    t.Inv := by
  obtain ⟨howned, hpulling, hbuffer, _, hparams⟩ := State.outsideProducer_eq_iff.mp hout
  simp only [State.consumerOwned, Prod.mk.injEq] at howned
  obtain ⟨hcur, hidx, _, hring, hphase⟩ := howned
  have hunread := hasUnread_congr hcur hidx hparams
  exact {
    params := hparams ▸ h.params
    env := hp.env
    pkt := hp.pkt
    pktClosed := hp.pktClosed
    qLength := hp.qLength
    qPackets := hp.qPackets
    curPkt := by rw [hcur, hparams]; exact h.curPkt
    curIdx := by rw [hidx, hparams]; exact h.curIdx
    ring := by rw [hring, hparams]; exact h.ring
    phase := by rw [hphase, hparams]; exact h.phase
    envxOut := hp.envxOut
    bufferEven := by rw [hbuffer]; exact h.bufferEven
    pulling := fun p hpull => (h.pulling p (hpulling ▸ hpull)).congr hunread }

/-- An operation of the producer keeps the producer's part (R29, R33, R93). -/
theorem exec_producerInv {i : Instr} {s t : State} (ha : i.agent = .producer) (h : ProducerInv s)
    (he : exec i s = .next t) : ProducerInv t := by
  have henv := exec_slotInv h.env he
  cases exec_effect he with
  | view v => exact ⟨henv, h.pkt, h.pktClosed, h.qLength, h.qPackets, envxOf_toNat_le _⟩
  | tick hopen hroom =>
    rw [tickEffect_eq] at henv ⊢
    refine ⟨henv, ?_, fun hclosed => ?_, h.qLength, h.qPackets, h.envxOut⟩
    · simp only [List.length_append, List.length_singleton]
      exact hroom
    · rw [hopen] at hclosed; cases hclosed
  | close => exact ⟨henv, Nat.zero_le _, fun _ => rfl, h.qLength, h.qPackets, h.envxOut⟩
  | pull => cases ha
  | setAdsr | setGain | setMvolL | setMvolR | install | keyOff | advance | hold =>
    exact ⟨henv, h.pkt, h.pktClosed, h.qLength, h.qPackets, h.envxOut⟩

/-- PUBLISH keeps the producer's part: it has room, and the packet is full (R185). -/
theorem publishIfDue_producerInv {s : State} (h : ProducerInv s) : ProducerInv (publishIfDue s) := by
  rcases publishIfDue_cases s with ⟨hdue, he⟩ | ⟨_, he⟩ <;> rw [he]
  · obtain ⟨hfull, hroom, _⟩ := (publishEnabled_iff s).mp hdue
    refine ⟨h.env, Nat.zero_le _, fun _ => rfl, ?_, fun p hp => ?_, h.envxOut⟩
    · rw [publish_q, List.length_append, List.length_singleton]
      exact hroom
    · rw [publish_q, List.mem_append, List.mem_singleton] at hp
      rcases hp with hp | rfl
      · exact h.qPackets p hp
      · exact hfull
  · exact h

theorem producerTurn_producerInv {s t : State} (h : ProducerInv s) (hturn : takeTurn .producer s = .next t) :
    ProducerInv t := by
  have hpub := publishIfDue_producerInv h
  rcases producer_next hturn with ⟨_, rfl⟩ | ⟨c, b, rest, i, u, _, _, ha, he, rfl⟩ | ⟨c, b, rest, x, _, rfl⟩
  · exact publishIfDue_producerInv hpub
  · exact publishIfDue_producerInv (exec_producerInv ha (hpub.withPorts rest b _ _) he)
  · exact publishIfDue_producerInv (hpub.withPorts rest _ _ _)

/-- A turn of the producer keeps the invariant. -/
theorem producerTurn_inv {k : Turn} (hk : k = .producer ∨ k = .publish) {s t : State} (h : s.Inv)
    (hturn : takeTurn k s = .next t) : t.Inv := by
  refine h.of_producer (producerTurn_frame hk hturn).1 ?_
  rcases hk with rfl | rfl
  · exact producerTurn_producerInv h.producerInv hturn
  · cases hturn; exact publishIfDue_producerInv h.producerInv

/-! ### The consumer -/

/-- The source signal's part of the invariant, and the parameters it stands on: the queue, the current packet, the ring and the
phase. -/
structure SourceInv (s : State) : Prop where
  params : s.params.Legal
  qLength : s.q.length ≤ s.params.queueCapacity
  qPackets : ∀ p ∈ s.q, p.length = s.params.packetFrames
  curPkt : ∀ p, s.curPkt = some p → p.length = s.params.packetFrames
  curIdx : s.curIdx ≤ s.params.packetFrames
  ring : s.ring.length = s.params.ringFrames
  phase : s.phaseNum < s.params.hostRate

theorem State.Inv.sourceInv {s : State} (h : s.Inv) : SourceInv s :=
  ⟨h.params, h.qLength, h.qPackets, h.curPkt, h.curIdx, h.ring, h.phase⟩

/-- What the consumer does not write keeps the rest of the invariant (R39). -/
theorem State.Inv.of_consumer {s t : State} (h : s.Inv) (hout : t.outsideConsumer = s.outsideConsumer) (hsrc : SourceInv t)
    (hbuffer : t.buffer.length % 2 = 0) (hpulling : ∀ p, t.pulling = some p → PullInv t p) : t.Inv := by
  obtain ⟨howned, hclosed, _, henvx, _, hparams⟩ := State.outsideConsumer_eq_iff.mp hout
  simp only [State.producerOwned, Prod.mk.injEq] at howned
  obtain ⟨_, _, henv, _, _, hpkt⟩ := howned
  exact {
    params := hsrc.params
    env := by rw [henv]; exact h.env
    pkt := by rw [hpkt, hparams]; exact h.pkt
    pktClosed := by rw [hclosed, hpkt]; exact h.pktClosed
    qLength := hsrc.qLength
    qPackets := hsrc.qPackets
    curPkt := hsrc.curPkt
    curIdx := hsrc.curIdx
    ring := hsrc.ring
    phase := hsrc.phase
    envxOut := by rw [henvx]; exact h.envxOut
    bufferEven := hbuffer
    pulling := hpulling }

section Source
variable {s : State} (h : SourceInv s)
include h

theorem SourceInv.advancePhase : SourceInv (advancePhase s).2 := by
  obtain ⟨_, _, hrate, _⟩ := h.params
  exact ⟨h.params, h.qLength, h.qPackets, h.curPkt, h.curIdx, h.ring, Nat.mod_lt _ hrate⟩

/-- A frame pushed into a ring that is not empty keeps its length (R37). -/
theorem SourceInv.pushRing (f : Frame32) : SourceInv (pushRing f s) := by
  obtain ⟨_, _, _, hlen⟩ := h.params
  refine ⟨h.params, h.qLength, h.qPackets, h.curPkt, h.curIdx, ?_, h.phase⟩
  have hring := h.ring
  simp only [pushRing_ring, pushRing_params, List.length_append, List.length_drop, List.length_singleton]
  omega

/-- The first half of SRC_NEXT: an unread frame is within its packet, and a packet that is received is complete (R200). -/
theorem SourceInv.srcTry : SourceInv (srcTry s).2 := by
  rcases srcTry_cases s with ⟨p, hcur, hunread, he⟩ | ⟨p, rest, _, hq, he⟩ | ⟨_, _, he⟩ <;> rw [he]
  · simp only [State.hasUnread, Bool.and_eq_true, decide_eq_true_eq] at hunread
    exact ⟨h.params, h.qLength, h.qPackets, fun p' hp' => by cases hp'; exact h.curPkt p hcur, hunread.2, h.ring, h.phase⟩
  · have hlength := h.qLength
    have hpackets := h.qPackets
    rw [hq] at hlength hpackets
    exact ⟨h.params, Nat.le_of_succ_le hlength, fun p' hp' => hpackets p' (List.mem_cons_of_mem _ hp'),
      fun p' hp' => by cases hp'; exact hpackets p List.mem_cons_self, h.params.1, h.ring, h.phase⟩
  · exact h

theorem SourceInv.underrun : SourceInv (underrun s).2 := by
  obtain ⟨f, hf⟩ := underrun_frame s
  rw [hf]
  exact ⟨h.params, h.qLength, h.qPackets, h.curPkt, h.curIdx, h.ring, h.phase⟩

theorem SourceInv.srcNext : SourceInv (srcNext s).2 := by
  have htry := h.srcTry
  unfold Machine.srcNext
  revert htry
  rcases Machine.srcTry s with ⟨_ | f, t⟩ <;> intro htry
  · exact htry.underrun
  · exact htry

theorem SourceInv.pullFrames (n : Nat) : SourceInv (pullFrames n s).2 :=
  pullFrames_keeps (fun _ h => h.advancePhase) (fun _ h => h.srcNext.pushRing _) n s h

theorem SourceInv.withPull (pulling : Option Pulling) (buffer : List F32) :
    SourceInv { s with pulling := pulling, buffer := buffer } :=
  ⟨h.params, h.qLength, h.qPackets, h.curPkt, h.curIdx, h.ring, h.phase⟩

end Source

theorem even_append_pair {α : Type} {l : List α} (h : l.length % 2 = 0) (x y : α) : (l ++ [x, y]).length % 2 = 0 := by
  rw [List.length_append]
  exact (Nat.add_mod_right _ _).trans h

/-- Where TryReceive answers none, no frame was unread and nothing has changed (R200). -/
theorem srcTry_none {s : State} (h : (srcTry s).1 = none) : s.hasUnread = false ∧ (srcTry s).2 = s := by
  rcases srcTry_cases s with ⟨p, _, _, he⟩ | ⟨p, rest, _, _, he⟩ | ⟨hunread, _, he⟩
  · rw [he] at h; cases h
  · rw [he] at h; cases h
  · exact ⟨hunread, by rw [he]⟩

/-- A part of a PULL keeps the invariant: where it goes on to read `closed`, no frame is unread (R200, R203). -/
theorem pullPart_inv {s : State} {p : Pulling} (h : s.Inv) (hp : s.pulling = some p) : (pullPart p s).Inv := by
  have hout : (pullPart p s).outsideConsumer = s.outsideConsumer := by
    obtain ⟨⟨pulling, buffer, hframe⟩, _⟩ := pullPart_frame p s
    exact (congrArg State.outsideConsumer hframe).trans rfl
  have hsrc := h.sourceInv
  obtain ⟨heven, hstage⟩ := h.pulling p hp
  obtain ⟨left, stage, out⟩ := p
  cases stage with
  | idle =>
    cases left with
    | zero => exact h.of_consumer hout (hsrc.withPull none out) heven fun p hp => by cases hp
    | succ left =>
      exact h.of_consumer hout (hsrc.advancePhase.withPull (some ⟨left + 1, .source _, out⟩) s.buffer) h.bufferEven
        fun p hp => by cases hp; exact ⟨heven, Nat.le_add_left 1 left⟩
  | source k =>
    cases k with
    | zero =>
      exact h.of_consumer hout (hsrc.withPull (some ⟨left - 1, .idle, _⟩) s.buffer) h.bufferEven
        fun p hp => by cases hp; exact ⟨even_append_pair heven _ _, trivial⟩
    | succ k =>
      have hbuffer : (srcTry s).2.buffer = s.buffer := (congrArg State.buffer (srcTry_frame s).1).trans rfl
      have hkept : (srcTry s).2.buffer.length % 2 = 0 := by rw [hbuffer]; exact h.bufferEven
      rw [pullPart_source] at hout ⊢
      cases htry : (srcTry s).1 with
      | none =>
        obtain ⟨hunread, hsame⟩ := srcTry_none htry
        rw [htry] at hout
        refine h.of_consumer hout (hsrc.srcTry.withPull (some ⟨left, .readClosed k, out⟩) _) hkept fun p hp => ?_
        cases hp
        exact ⟨heven, hstage, by rw [hsame]; exact hunread⟩
      | some f =>
        rw [htry] at hout
        exact h.of_consumer hout ((hsrc.srcTry.pushRing f).withPull (some ⟨left, .source k, out⟩) _) hkept
          fun p hp => by cases hp; exact ⟨heven, hstage⟩
  | readClosed k =>
    obtain ⟨hleft, _⟩ := hstage
    obtain ⟨f, hf⟩ := underrun_frame s
    have hbuffer : (underrun s).2.buffer = s.buffer := by rw [hf]
    refine h.of_consumer hout ((hsrc.underrun.pushRing (underrun s).1).withPull (some ⟨left, .source k, out⟩) _) ?_
      fun p hp => by cases hp; exact ⟨heven, hleft⟩
    exact (congrArg (fun b : List F32 => b.length % 2) hbuffer).trans h.bufferEven

/-- A PULL run whole keeps the invariant (R206). -/
theorem execPull_inv {s t : State} {n : BitVec 16} (h : s.Inv) (hp : s.pulling = none) (he : execPull n s = .next t) :
    t.Inv := by
  have hout := (execPull_frame he).1
  have hpulling : (pullFrames n.toNat s).2.pulling = s.pulling :=
    (congrArg State.pulling (pullFrames_frame n.toNat s)).trans rfl
  cases he
  refine h.of_consumer hout ((h.sourceInv.pullFrames n.toNat).withPull _ _) ?_ fun p hpull => ?_
  · dsimp only
    rw [pullFrames_length, Nat.mul_mod_right]
  · have hnone := (hpulling.trans hp).symm.trans hpull
    cases hnone

/-- A turn of the consumer keeps the invariant. -/
theorem consumerTurn_inv {k : Turn} (hk : k = .consumer ∨ k = .consumerPart) {s t : State} (h : s.Inv)
    (hturn : takeTurn k s = .next t) : t.Inv := by
  have hsrc := h.sourceInv
  have hport (rest : List (BitVec 32)) : State.Inv { s with consIn := rest } :=
    h.of_consumer rfl ⟨h.params, h.qLength, h.qPackets, h.curPkt, h.curIdx, h.ring, h.phase⟩ h.bufferEven h.pulling
  rcases consumer_next hk hturn with
    ⟨p, hp, rfl⟩ | ⟨_, _, rfl⟩ | ⟨w, rest, n, hp, _, _, ⟨_, he⟩ | ⟨_, rfl⟩⟩ | ⟨w, rest, x, _, _, rfl⟩
  · exact pullPart_inv h hp
  · exact h
  · exact execPull_inv (hport rest) hp he
  · exact h.of_consumer rfl (SourceInv.withPull (s := { s with consIn := rest }) (hport rest).sourceInv _ s.buffer)
      h.bufferEven fun p hp => by cases hp; exact ⟨rfl, trivial⟩
  · exact (hport rest).of_producer rfl ((hport rest).producerInv.withPorts _ _ _ _)

/-! ### Reset and the step -/

/-- Reset meets the invariant whatever stood before (R41, R250). -/
theorem resetBlock_inv (d : Draw) {s : State} (h : s.params.Legal) : (resetBlock d s).Inv := by
  have ⟨_, _, hrate, _⟩ := h
  have habsent (v : Voice) : (resetBlock d s).env[v] = none := resetWith_env s.params d v
  exact {
    params := h
    env := fun v e he => by rw [habsent] at he; cases he
    pkt := Nat.zero_le _
    pktClosed := fun _ => rfl
    qLength := Nat.zero_le _
    qPackets := nofun
    curPkt := nofun
    curIdx := Nat.zero_le _
    ring := List.length_replicate
    phase := hrate
    envxOut := Nat.zero_le _
    bufferEven := rfl
    pulling := nofun }

theorem zero_finite : Frame32Finite Frame32.zero := by decide

theorem resetBlock_floatsFinite (d : Draw) (s : State) : (resetBlock d s).FloatsFinite :=
  ⟨zero_finite, fun f hf => by rw [List.eq_of_mem_replicate hf]; exact zero_finite⟩

/-- Settles O58: the reset state is what a reset turn leaves. -/
theorem resetMeetsTheInvariant : Obligations.ResetMeetsTheInvariant := fun p d h =>
  ⟨resetBlock_inv d (s := State.resetWith p d) h, resetBlock_floatsFinite d (State.resetWith p d)⟩

/-- Settles O59: a step is a turn of one agent, or a reset. -/
theorem stepKeepsTheInvariant : Obligations.StepKeepsTheInvariant := by
  intro s t h hstep
  have hturns (ts : List Turn) : State.Inv { s with turns := ts } := 
    h.of_producer rfl (h.producerInv.withPorts s.prodIn s.brrIn ts s.refusals)
  rcases step_cases hstep with ⟨_, rfl⟩ | ⟨ts, _, hturn⟩ | ⟨ts, _, rfl⟩ | ⟨k, ts, _, hk, hturn⟩ | ⟨d, ts, _, rfl⟩
  · exact h
  · exact producerTurn_inv (.inl rfl) (hturns ts) hturn
  · exact producerTurn_inv (.inr rfl) (hturns ts) rfl
  · exact consumerTurn_inv hk (hturns ts) hturn
  · exact resetBlock_inv d h.params

end Sys2Proof.Machine
end

section
/-! PROOFS. The consumer's frames stay finite (R201, R202): a converted sample is, and damping keeps a finite frame finite.
Settles O60. -/
namespace Sys2Proof.Machine

open Sys2Proof

/-! ### Finite frames -/

theorem toF32_finite (f : Frame16) : Frame32Finite (toF32 f) := by
  obtain ⟨hexact, _⟩ := sampleConversionIsExact
  exact ⟨(hexact f.left).1, (hexact f.right).1⟩

theorem damp_finite {f : Frame32} (h : Frame32Finite f) : Frame32Finite (damp f) := by
  obtain ⟨_, _, _, hdamp, _⟩ := dampingDecaysWithoutReachingZero
  exact ⟨(hdamp f.left h.1).1, (hdamp f.right h.2).1⟩

/-! ### The consumer's parts -/

section Source
variable {s : State} (h : s.FloatsFinite)
include h

/-- The last frame and the ring are all that counts. -/
theorem State.FloatsFinite.congr {t : State} (hlast : t.lastFrame = s.lastFrame) (hring : t.ring = s.ring) :
    t.FloatsFinite := by
  unfold State.FloatsFinite
  rw [hlast, hring]
  exact h

theorem State.FloatsFinite.pushRing {f : Frame32} (hf : Frame32Finite f) : (pushRing f s).FloatsFinite := by
  obtain ⟨hlast, hring⟩ := h
  refine ⟨hlast, fun g hg => ?_⟩
  rw [pushRing_ring, List.mem_append, List.mem_singleton] at hg
  rcases hg with hg | rfl
  · exact hring g (List.mem_of_mem_drop hg)
  · exact hf

theorem State.FloatsFinite.srcTry :
    (srcTry s).2.FloatsFinite ∧ ∀ f, (srcTry s).1 = some f → Frame32Finite f := by
  have hemit (p : Packet) (i : Nat) (t : State) (hring : t.ring = s.ring) : (emitted p i t).FloatsFinite :=
    ⟨toF32_finite _, fun f hf => h.2 f (hring ▸ hf)⟩
  rcases srcTry_cases s with ⟨p, _, _, he⟩ | ⟨p, rest, _, _, he⟩ | ⟨_, _, he⟩ <;> rw [he]
  · exact ⟨hemit p _ s rfl, fun f hf => by cases hf; exact toF32_finite _⟩
  · exact ⟨hemit p 0 _ rfl, fun f hf => by cases hf; exact toF32_finite _⟩
  · exact ⟨h, nofun⟩

theorem State.FloatsFinite.underrun : (underrun s).2.FloatsFinite ∧ Frame32Finite (underrun s).1 := by
  rcases underrun_cases s with ⟨_, he⟩ | ⟨_, _, he⟩ | ⟨_, _, he⟩ <;> rw [he]
  · exact ⟨h, zero_finite⟩
  · exact ⟨⟨damp_finite h.1, h.2⟩, damp_finite h.1⟩
  · exact ⟨h, zero_finite⟩

theorem State.FloatsFinite.srcPush : (srcPush s).FloatsFinite := by
  have hnext : (srcNext s).2.FloatsFinite ∧ Frame32Finite (srcNext s).1 := by
    obtain ⟨htry, hframe⟩ := h.srcTry
    unfold srcNext
    revert htry hframe
    rcases Machine.srcTry s with ⟨_ | f, t⟩ <;> intro htry hframe
    · exact htry.underrun
    · exact ⟨htry, hframe f rfl⟩
  exact hnext.1.pushRing hnext.2

theorem State.FloatsFinite.pullFrames (n : Nat) : (pullFrames n s).2.FloatsFinite :=
  pullFrames_keeps (P := State.FloatsFinite) (fun _ h => h) (fun _ h => h.srcPush) n s h

theorem State.FloatsFinite.pullPart (p : Pulling) : (pullPart p s).FloatsFinite := by
  obtain ⟨left, stage, out⟩ := p
  cases stage with
  | idle => cases left <;> exact h
  | source k =>
    cases k with
    | zero => exact h
    | succ k =>
      obtain ⟨hstate, hframe⟩ := h.srcTry
      rw [pullPart_source]
      cases htry : (Machine.srcTry s).1 with
      | none => exact hstate
      | some f => exact hstate.pushRing (hframe f htry)
  | readClosed k =>
    obtain ⟨hstate, hframe⟩ := h.underrun
    exact hstate.pushRing hframe

theorem State.FloatsFinite.consumerTurn {t : State} {k : Turn} (hk : k = .consumer ∨ k = .consumerPart)
    (hturn : takeTurn k s = .next t) : t.FloatsFinite := by
  rcases consumer_next hk hturn with
    ⟨p, _, rfl⟩ | ⟨_, _, rfl⟩ | ⟨w, rest, n, _, _, _, ⟨_, he⟩ | ⟨_, rfl⟩⟩ | ⟨w, rest, x, _, _, rfl⟩
  · exact h.pullPart p
  · exact h
  · cases he
    exact State.FloatsFinite.pullFrames (s := { s with consIn := rest }) h n.toNat
  · exact h
  · exact h

/-- The producer writes no frame of the consumer's (R39). -/
theorem State.FloatsFinite.producerTurn {t : State} {k : Turn} (hk : k = .producer ∨ k = .publish)
    (hturn : takeTurn k s = .next t) : t.FloatsFinite := by
  obtain ⟨howned, _⟩ := State.outsideProducer_eq_iff.mp (producerTurn_frame hk hturn).1
  simp only [State.consumerOwned, Prod.mk.injEq] at howned
  obtain ⟨_, _, hlast, hring, _⟩ := howned
  exact h.congr hlast hring

end Source

/-! ### The statement -/

/-- Settles O60: the consumer emits converted, damped or zero frames only; the producer and reset bring in no other. -/
theorem stepKeepsTheFramesFinite : Obligations.StepKeepsTheFramesFinite := by
  intro s t h hstep
  rcases step_cases hstep with ⟨_, rfl⟩ | ⟨ts, _, hturn⟩ | ⟨ts, _, rfl⟩ | ⟨k, ts, _, hk, hturn⟩ | ⟨d, ts, _, rfl⟩
  · exact h
  · exact State.FloatsFinite.producerTurn (s := { s with turns := ts }) h (.inl rfl) hturn
  · exact State.FloatsFinite.producerTurn (s := { s with turns := ts }) h (.inr rfl) rfl
  · exact State.FloatsFinite.consumerTurn (s := { s with turns := ts }) h hk hturn
  · exact resetBlock_floatsFinite d _

end Sys2Proof.Machine
end

section
/-! PROOFS. Key-on (R99, R112, R130): KON and its ten decoding cases are each one installation, by which they agree, and no other
operation reads the voice registers (R74). Settles O9, O10, O11 and O16. -/
namespace Sys2Proof.Machine

open Sys2Proof

/-! ### Installations -/

theorem installEnv_of_gain {c : Curve} {g : Int} (hg : initialGain c = some g) (v : Voice) (cfg : EnvCfg) (s : State) :
    installEnv v c cfg s = .next (s.setEnv v (some ⟨c, g, 0, cfg⟩)) := by
  rw [installEnv_eq, hg]

theorem exec_kon_install (v : Voice) (s : State) :
    exec (.kon v) s = installEnv v (konCurve s.adsr[v] s.gain[v]) (snapshotOf s.adsr[v]) s := by
  simp only [exec, execKon, onVoice_voice]; rfl

theorem exec_konDecay (v : Voice) (sl : BitVec 3) (sr : BitVec 5) (d : BitVec 3) (s : State) :
    exec (.konDecay v sl sr d) s = installEnv v (.decay (decayStep d)) (snapshot sl sr d) s := by
  simp only [exec, execKonDecay, onVoice_voice]

theorem exec_konAttack (v : Voice) (sl : BitVec 3) (sr : BitVec 5) (d : BitVec 3) (a : BitVec 4) (s : State) :
    exec (.konAttack v sl sr d a) s = installEnv v (adsrCurve (attackStep a) (decayStep d)) (snapshot sl sr d) s := by
  simp only [exec, execKonAttack, onVoice_voice]

theorem exec_konGainsel (v : Voice) (sl : BitVec 3) (sr : BitVec 5) (d : BitVec 3) (a : BitVec 4) (s : State) :
    exec (.konGainsel v sl sr d a) s = installEnv v (gainCurve (decodeGain s.gain[v])) (snapshot sl sr d) s := by
  simp only [exec, execKonGainsel, onVoice_voice]

section GainCases
variable (v : Voice) (s : State)

theorem exec_konDirect (level : BitVec 7) :
    exec (.konDirect v level) s = installEnv v (.static (directLevel level)) (snapshotOf s.adsr[v]) s := by
  simp only [exec, execKonDirect, onVoice_voice]

theorem exec_konHoldmax (m : BitVec 1) :
    exec (.konHoldmax v m) s = installEnv v (.static Config.maxGain) (snapshotOf s.adsr[v]) s := by
  simp only [exec, execKonHoldmax, onVoice_voice]

theorem exec_konHoldzero (m : BitVec 1) :
    exec (.konHoldzero v m) s = installEnv v (.static 0) (snapshotOf s.adsr[v]) s := by
  simp only [exec, execKonHoldzero, onVoice_voice]

variable (p : BitVec 5)

theorem exec_konLindecr :
    exec (.konLindecr v p) s = installEnv v (gainCurve (.curve 0#2 (stepS p))) (snapshotOf s.adsr[v]) s := by
  simp only [exec, execKonLindecr, onVoice_voice]

theorem exec_konExpdecr :
    exec (.konExpdecr v p) s = installEnv v (gainCurve (.curve 1#2 (stepS p))) (snapshotOf s.adsr[v]) s := by
  simp only [exec, execKonExpdecr, onVoice_voice]

theorem exec_konLinincr :
    exec (.konLinincr v p) s = installEnv v (gainCurve (.curve 2#2 (stepS p))) (snapshotOf s.adsr[v]) s := by
  simp only [exec, execKonLinincr, onVoice_voice]

theorem exec_konBentincr :
    exec (.konBentincr v p) s = installEnv v (gainCurve (.curve 3#2 (stepS p))) (snapshotOf s.adsr[v]) s := by
  simp only [exec, execKonBentincr, onVoice_voice]

end GainCases

/-! ### KON and its cases -/

/-- The case of an ADSR word installs what KON does with that word in its register (R99, R112). -/
theorem exec_decodeAdsrCase (v : Voice) (w : BitVec 16) (s : State) :
    exec (decodeAdsrCase v w) s = installEnv v (konCurve w s.gain[v]) (snapshotOf w) s := by
  unfold decodeAdsrCase
  split
  case isTrue hen =>
    rw [konCurve_enabled hen]
    split
    case isTrue ha => rw [exec_konDecay, ha]; rfl
    case isFalse => rw [exec_konAttack]; rfl
  case isFalse hen => rw [exec_konGainsel, konCurve_disabled (one_of_ne_zero _ hen)]; rfl

/-- The case of a gain byte installs the byte's curve (R99, R112 lines 3 to 9). -/
theorem exec_decodeGainCase (v : Voice) (b : BitVec 8) (s : State) :
    exec (decodeGainCase v b) s = installEnv v (gainCurve (decodeGain b)) (snapshotOf s.adsr[v]) s := by
  unfold decodeGainCase
  split
  case isTrue hdirect => rw [exec_konDirect, decodeGain_of_direct hdirect]; rfl
  case isFalse hcurve =>
  rw [decodeGain_of_curve (Decidable.not_not.mp fun h => hcurve (one_of_ne_zero _ h))]
  split
  case isTrue hzero =>
    rw [(stepS_none_iff _).mpr hzero]
    split
    case isTrue hm => rw [exec_konHoldmax, gainCurve, if_pos hm]
    case isFalse hm => rw [exec_konHoldzero, gainCurve, if_neg hm]
  case isFalse hparam =>
    split
    case h_1 hm => rw [exec_konLindecr, show modeField b = 0#2 from BitVec.eq_of_toNat_eq hm]
    case h_2 hm => rw [exec_konExpdecr, show modeField b = 1#2 from BitVec.eq_of_toNat_eq hm]
    case h_3 hm => rw [exec_konLinincr, show modeField b = 2#2 from BitVec.eq_of_toNat_eq hm]
    case h_4 h0 h1 h2 => rw [exec_konBentincr, mode_last _ h0 h1 h2]

/-- Settles O9: KON and the two cases install the same curve with the same snapshot. -/
theorem konIsTheDecodingCaseOfItsRegisters : Obligations.KonIsTheDecodingCaseOfItsRegisters := by
  refine fun s v => ⟨⟨_, decode_adsr16 v.isLt _, ?_⟩, fun hen => ⟨_, decode_gain8 v.isLt _, ?_⟩⟩
  · rw [exec_kon_install, exec_decodeAdsrCase]
  · rw [exec_kon_install, exec_decodeGainCase, konCurve_disabled hen]

/-! ### What the cases install -/

/-- Settles O10: each ADSR16 case by its curve's initial gain. -/
theorem adsrCasesInstallTheirCurves : Obligations.AdsrCasesInstallTheirCurves := by
  refine fun s v sl sr d a => ⟨?_, fun n hn => ?_, fun ha => ?_, ?_⟩
  · rw [exec_konDecay]
    exact installEnv_of_gain rfl v _ s
  · rw [exec_konAttack, hn]
    exact installEnv_of_gain rfl v _ s
  · rw [exec_konAttack, exec_konDecay, ha]
    rfl
  · rw [exec_konGainsel]
    obtain ⟨g, hg, hinstall⟩ := installEnv_first (gainCurve_first (decodeGain s.gain[v])) v (snapshot sl sr d) s
    exact ⟨_, hinstall, rfl, rfl, rfl, hg.symm⟩

/-- Settles O11: each GAIN8 case by its curve's initial gain; Table S decides between the curve and the held level. -/
theorem gainCasesInstallTheirCurves : Obligations.GainCasesInstallTheirCurves := by
  intro s v level m p n put
  have hput {c : Curve} {g : Int} (hg : initialGain c = some g) : installEnv v c (snapshotOf s.adsr[v]) s = put c g :=
    installEnv_of_gain hg v _ s
  refine ⟨?_, ?_, ?_, fun hp => ⟨?_, ?_, ?_, ?_⟩, fun hp => ⟨?_, ?_, ?_, ?_⟩⟩
  · rw [exec_konDirect]; exact hput rfl
  · rw [exec_konHoldmax]; exact hput rfl
  · rw [exec_konHoldzero]; exact hput rfl
  · rw [exec_konLindecr, hp]; exact hput rfl
  · rw [exec_konExpdecr, hp]; exact hput rfl
  · rw [exec_konLinincr, hp]; exact hput rfl
  · rw [exec_konBentincr, hp]; exact hput rfl
  · rw [exec_konLindecr, hp]; exact hput rfl
  · rw [exec_konExpdecr, hp]; exact hput rfl
  · rw [exec_konLinincr, hp]; exact hput rfl
  · rw [exec_konBentincr, hp]; exact hput rfl

/-! ### The voice registers are read by key-on only -/

/-- Two answers that agree but for the voice registers. -/
def SameButRegisters : Result → Result → Prop
  | .next t, r => ∃ t', r = .next t' ∧ { t' with adsr := t.adsr, gain := t.gain } = t
  | .fault f, r => r = .fault f
  | .refused x, r => r = .refused x

theorem onVoice_sameButRegisters (v : Nat) {run run' : Voice → Result} (h : ∀ u, SameButRegisters (run u) (run' u)) :
    SameButRegisters (onVoice v run) (onVoice v run') := by
  unfold onVoice
  split
  · exact h _
  · rfl

/-- An answer whose state differs in what the producer owns, and there in the registers only. -/
theorem mapNext_sameButRegisters (r : Result) (a : Vector (BitVec 16) 8) (g : Vector (BitVec 8) 8) :
    SameButRegisters r (mapNext (fun t => { t with adsr := a, gain := g }) r) := by
  cases r with
  | next t => exact ⟨_, rfl, rfl⟩
  | fault | refused => rfl

theorem execTick_registers (s : State) (a : Vector (BitVec 16) 8) (g : Vector (BitVec 8) 8) :
    execTick { s with adsr := a, gain := g } = mapNext (fun t => { t with adsr := a, gain := g }) (execTick s) := by
  unfold execTick
  rw [tickEffect_eq, tickEffect_eq, apply_ite (mapNext _), apply_ite (mapNext _)]
  rfl

/-- PULL reads none of the producer's state, the registers among it (R39). -/
theorem execPull_registers (n : BitVec 16) (s : State) (a : Vector (BitVec 16) 8) (g : Vector (BitVec 8) 8) :
    SameButRegisters (exec (.pull n) s) (exec (.pull n) { s with adsr := a, gain := g }) := by
  refine ⟨_, exec_withProducerOwned (i := .pull n) rfl s { s with adsr := a, gain := g }, ?_⟩
  dsimp only [State.withProducerOwned]
  rw [pullFrames_frame n.toNat s]
  rfl

/-- Settles O16: apart from the key-ons, only the latches touch the registers, and they do not read them. -/
theorem onlyKeyOnSeesTheVoiceRegisters : Obligations.OnlyKeyOnSeesTheVoiceRegisters := by
  intro i s a g hi
  have h : SameButRegisters (exec i s) (exec i { s with adsr := a, gain := g }) := by
    cases i with
    | wradsr v | wrgain v | koff v | rdenvx v | adv v =>
      simp only [exec, execWradsr, execWrgain, execKoff, execRdenvx, execAdv]
      exact onVoice_sameButRegisters v fun _ => ⟨_, rfl, rfl⟩
    | wrmvoll | wrmvolr | close => exact ⟨_, rfl, rfl⟩
    | tick =>
      have htick := mapNext_sameButRegisters (execTick s) a g
      rw [← execTick_registers] at htick
      exact htick
    | pull n => exact execPull_registers n s a g
    | kon | konDecay | konAttack | konGainsel | konDirect | konHoldmax | konHoldzero | konLindecr | konExpdecr | konLinincr
    | konBentincr => cases hi
  cases hr : exec i s <;> rw [hr] at h <;> exact h

end Sys2Proof.Machine
end

section
/-! PROOFS. ADV curve by curve (R133 to R143): the count and the check of each, and the run of the exponential delta from the
largest gain. Then the TICK of muted voices (R177). Settles O19, O20, O21, O22, O23, O24, O25 and O34. -/
namespace Sys2Proof.Machine

open Sys2Proof

/-! ### The count and the check, whole -/

theorem countTick_eq (n : Nat) (f : Int → Int) (e : Env) :
    countTick n f e = ⟨e.curve, if n ≤ e.counter + 1 then e.gain + f e.gain else e.gain,
      if n ≤ e.counter + 1 then 0 else e.counter + 1, e.cfg⟩ := by
  unfold countTick
  split <;> rfl

section Curves
variable {e : Env} {n : Nat}

theorem advEnv_attack (h : e.curve = .attack n) :
    advEnv e = (.sample e.gain, checkAttack (countTick n (fun _ => 32) e)) := by
  unfold advEnv; rw [h]; rfl

theorem advEnv_decay (h : e.curve = .decay n) : advEnv e = (.sample e.gain, checkDecay (countTick n expDelta e)) := by
  unfold advEnv; rw [h]

theorem advEnv_falling (h : e.curve = .sustain n ∨ e.curve = .expDecr n) :
    advEnv e = (.sample e.gain, checkFloor (countTick n expDelta e)) := by
  unfold advEnv
  rcases h with h | h <;> rw [h]

theorem advEnv_linDecr (h : e.curve = .linDecr n) :
    advEnv e = (.sample e.gain, checkFloor (countTick n (fun _ => -32) e)) := by
  unfold advEnv; rw [h]; rfl

theorem advEnv_linIncr (h : e.curve = .linIncr n) :
    advEnv e = (.sample e.gain, checkCeiling (countTick n (fun _ => 32) e)) := by
  unfold advEnv; rw [h]; rfl

theorem advEnv_bentIncr (h : e.curve = .bentIncr n) :
    advEnv e = (.sample e.gain, checkCeiling (countTick n bentDelta e)) := by
  unfold advEnv; rw [h]

end Curves

/-- ADV of a voice whose envelope answers its gain. -/
theorem exec_adv_sample {s : State} {v : Voice} {e e' : Env} (he : s.env[v] = some e)
    (h : advEnv e = (.sample e.gain, e')) : exec (.adv v) s = .next { s with
      env := s.env.set v (some e')
      advOut := 1#1 ++ BitVec.ofInt 16 e.gain } := by
  rw [exec_adv_present he, h]
  rfl

/-! ### The statements, curve by curve -/

/-- Settles O19: the count adds 32, and the check ends the attack at 2016. -/
theorem advInAttack : Obligations.AdvInAttack := by
  intro s v e n he hc g k
  refine exec_adv_sample he ?_
  rw [advEnv_attack hc, countTick_eq, hc]
  rfl

/-- Settles O20: the count adds the exponential delta, and the check on every tick ends the decay at the sustain level. -/
theorem advInDecay : Obligations.AdvInDecay := by
  intro s v e n he hc g k
  refine exec_adv_sample he ?_
  rw [advEnv_decay hc, countTick_eq, hc, expDelta_eq, ← sub_eq_add_neg]
  rfl

/-- Settles O21: the count adds the exponential delta, and the check ends the curve at 0. -/
theorem advInSustainAndExpDecr : Obligations.AdvInSustainAndExpDecr := by
  intro s v e n he hc g k
  refine exec_adv_sample he ?_
  rw [advEnv_falling hc, countTick_eq, expDelta_eq, ← sub_eq_add_neg]
  rfl

/-- Settles O22: the count takes 32, and the check ends the curve at 0. -/
theorem advInLinDecr : Obligations.AdvInLinDecr := by
  intro s v e n he hc g k
  refine exec_adv_sample he ?_
  rw [advEnv_linDecr hc, countTick_eq, hc, ← sub_eq_add_neg]
  rfl

/-- Settles O23: the gain before chooses the bent line's delta, and the check ends both lines at 2016. -/
theorem advInLinIncrAndBentIncr : Obligations.AdvInLinIncrAndBentIncr := by
  intro s v e n he hc delta g k
  refine exec_adv_sample he ?_
  rcases hc with hc | hc
  · have hdelta : delta = 32 := if_neg fun h => by rw [hc] at h; cases h.1
    rw [advEnv_linIncr hc, countTick_eq, ← hdelta]
    rfl
  · have hdelta : delta = bentDelta e.gain := if_congr (and_iff_right hc) rfl rfl
    rw [advEnv_bentIncr hc, countTick_eq, ← hdelta]
    rfl

/-- Settles O24: `Fade` by the sign of its gain, and `Static` writes its slot back. -/
theorem advInFadeAndStatic : Obligations.AdvInFadeAndStatic := by
  refine fun s v e he => ⟨fun hc hg => ?_, fun hc hg => ?_, fun l hl => ?_⟩
  · refine exec_adv_sample he ?_
    rw [advEnv_fade hc, if_neg (not_le.mpr hg), hc]
  · refine exec_adv_muted ?_
    rw [State.muted, he, mutedEnv_some_iff]
    exact ⟨hc, hg⟩
  · rw [exec_adv_present he, advEnv_static hl, ← he, State.setEnv_self, encodeAdv_sample_natCast]

/-! ### The exponential delta -/

/-- The deltas at the first `m` gains of a run from `g`. -/
def deltas (f : Int → Int) (m : Nat) (g : Int) : List Int := (List.range m).map fun k => f ((applyDelta f)^[k] g)

theorem deltas_add (f : Int → Int) (a b : Nat) (g : Int) :
    deltas f (a + b) g = deltas f a g ++ deltas f b ((applyDelta f)^[a] g) := by
  simp only [deltas, List.range_add, List.map_append, List.map_map, Function.comp_def]
  congr 2
  funext k
  rw [Nat.add_comm a k, Function.iterate_add_apply]

/-- In the band of `d` the deltas are all `-d`, and lead to `g'`. -/
theorem deltas_expDelta_band (m : Nat) (d : Int) {g g' : Int} (hd : 0 ≤ d) (hlo : 256 * (d - 1) < g' + d)
    (hhi : g ≤ 256 * d) (hg' : g + m * -d = g') :
    deltas expDelta m g = List.replicate m (-d) ∧ (applyDelta expDelta)^[m] g = g' := by
  refine ⟨?_, iterate_expDelta_band m d hd hlo hhi hg'⟩
  refine List.eq_replicate_iff.mpr ⟨by simp [deltas], fun x hx => ?_⟩
  obtain ⟨k, hk, rfl⟩ := List.mem_map.mp hx
  have hkm : k < m := List.mem_range.mp hk
  have hle (j : Nat) (hj : j ≤ m) : (j : Int) * d ≤ m * d := mul_le_mul_of_nonneg_right (by exact_mod_cast hj) hd
  have hfirst : 0 ≤ (k : Int) * d := by positivity
  have hk1 := hle k hkm.le
  have hk2 := hle (k + 1) hkm
  push_cast at hk2
  rw [iterate_expDelta_band k d hd (g' := g + k * -d) (by linarith) hhi rfl]
  exact expDelta_of_band (by linarith) (by linarith)

/-- The run of the exponential delta from the largest gain, band by band (R143). -/
theorem deltas_expDelta :
    deltas expDelta 691 2016 = List.replicate 28 (-8) ++ List.replicate 37 (-7) ++ List.replicate 43 (-6) ++
      List.replicate 51 (-5) ++ List.replicate 63 (-4) ++ List.replicate 86 (-3) ++ List.replicate 127 (-2) ++
      List.replicate 256 (-1) ∧
    (applyDelta expDelta)^[691] 2016 = 0 := by
  have append {a b : Nat} {g g' g'' : Int} {l l' : List Int}
      (h : deltas expDelta a g = l ∧ (applyDelta expDelta)^[a] g = g')
      (h' : deltas expDelta b g' = l' ∧ (applyDelta expDelta)^[b] g' = g'') :
      deltas expDelta (a + b) g = l ++ l' ∧ (applyDelta expDelta)^[a + b] g = g'' := by
    obtain ⟨hl, hg⟩ := h
    obtain ⟨hl', hg'⟩ := h'
    exact ⟨by rw [deltas_add, hl, hg, hl'], by rw [Nat.add_comm, Function.iterate_add_apply, hg, hg']⟩
  have h8 := deltas_expDelta_band 28 8 (g := 2016) (g' := 1792) (by decide) (by decide) (by decide) (by decide)
  have h7 := deltas_expDelta_band 37 7 (g := 1792) (g' := 1533) (by decide) (by decide) (by decide) (by decide)
  have h6 := deltas_expDelta_band 43 6 (g := 1533) (g' := 1275) (by decide) (by decide) (by decide) (by decide)
  have h5 := deltas_expDelta_band 51 5 (g := 1275) (g' := 1020) (by decide) (by decide) (by decide) (by decide)
  have h4 := deltas_expDelta_band 63 4 (g := 1020) (g' := 768) (by decide) (by decide) (by decide) (by decide)
  have h3 := deltas_expDelta_band 86 3 (g := 768) (g' := 510) (by decide) (by decide) (by decide) (by decide)
  have h2 := deltas_expDelta_band 127 2 (g := 510) (g' := 256) (by decide) (by decide) (by decide) (by decide)
  have h1 := deltas_expDelta_band 256 1 (g := 256) (g' := 0) (by decide) (by decide) (by decide) (by decide)
  have hrun := append (append (append (append (append (append (append h8 h7) h6) h5) h4) h3) h2) h1
  rwa [show 28 + 37 + 43 + 51 + 63 + 86 + 127 + 256 = 691 from rfl] at hrun

/-- At 0 the run stays (R143). -/
theorem iterate_expDelta_zero (k : Nat) : (applyDelta expDelta)^[k] 0 = 0 :=
  Function.iterate_fixed (by decide) k

/-- The run reaches 0 at its 691st delta and not before: the 690th leaves 1. -/
theorem iterate_expDelta_eq_zero_iff (k : Nat) : (applyDelta expDelta)^[k] 2016 = 0 ↔ 691 ≤ k := by
  constructor
  · intro h
    by_contra hlt
    obtain ⟨j, hj⟩ := Nat.le.dest (Nat.le_of_lt_succ (Nat.not_le.mp hlt))
    have hone := iterate_expDelta
    rw [← hj, Nat.add_comm, Function.iterate_add_apply, h, iterate_expDelta_zero] at hone
    cases hone
  · intro h
    obtain ⟨j, rfl⟩ := Nat.exists_eq_add_of_le' h
    rw [Function.iterate_add_apply, deltas_expDelta.2, iterate_expDelta_zero]

theorem filter_deltas_length (f : Int → Int) (m : Nat) (g x : Int) :
    ((List.range m).filter fun k => f ((applyDelta f)^[k] g) == x).length = (deltas f m g).count x := by
  rw [deltas, List.count, List.countP_map, List.countP_eq_length_filter]
  rfl

/-- Settles O25: the formula by its bands, and the run from 2016 band by band. -/
theorem expDeltaSteps : Obligations.ExpDeltaSteps := by
  refine ⟨expDelta_eq, fun g hlo hhi => ?_, by decide, iterate_expDelta_eq_zero_iff, ?_⟩
  · rw [expDelta_eq]
    omega
  · have hcount (d : Int) :
        ((List.range 691).filter fun k => expDelta ((fun g => g + expDelta g)^[k] 2016) == -d).length =
          (deltas expDelta 691 2016).count (-d) := filter_deltas_length expDelta 691 2016 (-d)
    simp only [hcount, deltas_expDelta.1, List.count_append, List.count_replicate]
    decide

/-! ### A TICK of muted voices -/

/-- Advancing muted slots changes none of them (R150, R222). -/
theorem advancedEnv_muted {s : State} (h : ∀ v, s.muted v = true) : advancedEnv voiceOrder s.env = s.env := by
  ext i hi : 1
  have hslot := advancedEnv_voiceOrder s.env ⟨i, hi⟩
  rw [advSlot_muted (h ⟨i, hi⟩)] at hslot
  exact hslot

/-- Settles O34: the slots stay, and the frame is that of muted voices. -/
theorem silentTickWritesTheZeroFrame : Obligations.SilentTickWritesTheZeroFrame := by
  intro s hopen hroom hmuted
  rw [exec_tick_enabled hopen hroom, tickEffect_eq, advancedEnv_muted hmuted, mixSum_muted hmuted, mixSum_muted hmuted]
  rfl

end Sys2Proof.Machine
end

section
/-! PROOFS. A PULL in parts (R206, R232; log entry 7): each part is one turn, and the parts one after the other do what CONVERT's
loop does in one go. Settles O50. -/
namespace Sys2Proof.Machine

open Sys2Proof

/-! ### The ports are not read -/

theorem srcTry_ports (s : State) (p : Option Pulling) (ts : List Turn) :
    srcTry { s with pulling := p, turns := ts } =
      ((srcTry s).1, { (srcTry s).2 with pulling := p, turns := ts }) := by
  rcases srcTry_cases s with ⟨q, hc, hu, h⟩ | ⟨q, rest, hu, hq, h⟩ | ⟨hu, hq, h⟩ <;> rw [h]
  · exact srcTry_unread (s := { s with pulling := p, turns := ts }) hc hu
  · exact srcTry_receive (s := { s with pulling := p, turns := ts }) hu hq
  · exact srcTry_empty (s := { s with pulling := p, turns := ts }) hu hq

theorem underrun_ports (s : State) (p : Option Pulling) (ts : List Turn) :
    underrun { s with pulling := p, turns := ts } =
      ((underrun s).1, { (underrun s).2 with pulling := p, turns := ts }) := by
  rcases underrun_cases s with ⟨hc, h⟩ | ⟨hc, hp, h⟩ | ⟨hc, hp, h⟩ <;> rw [h]
  · exact underrun_closed (s := { s with pulling := p, turns := ts }) hc
  · exact underrun_damp (s := { s with pulling := p, turns := ts }) hc hp
  · exact underrun_none (s := { s with pulling := p, turns := ts }) hc hp

/-! ### Runs of parts -/

theorem run_succ {M : Host.Core} {s t : M.State} (h : M.step s = .next t) (k : Nat) : M.run (k + 1) s = M.run k t := by
  rw [Host.Core.run, h]

theorem core_run_succ {s t : State} (h : step s = .next t) (k : Nat) :
    Sys2Proof.core.run (k + 1) s = Sys2Proof.core.run k t :=
  run_succ (M := Sys2Proof.core) h k

/-- `m` parts, one after the other, take a PULL `p` on the state `s` to a PULL `p'` on the state `t`, whatever the schedule
holds after them. -/
def PullRuns (m : Nat) (s : State) (p : Pulling) (t : State) (p' : Pulling) : Prop :=
  ∀ k ts, Sys2Proof.core.run (m + k) { s with pulling := some p, turns := List.replicate m .consumerPart ++ ts } =
    Sys2Proof.core.run k { t with pulling := some p', turns := ts }

theorem PullRuns.refl (s : State) (p : Pulling) : PullRuns 0 s p s p := fun k ts => by rw [Nat.zero_add]; rfl

theorem PullRuns.trans {a b : Nat} {s t u : State} {p p' p'' : Pulling} (h : PullRuns a s p t p') (h' : PullRuns b t p' u p'') :
    PullRuns (a + b) s p u p'' := fun k ts => by
  rw [← List.replicate_append_replicate, List.append_assoc, Nat.add_assoc, h, h']

/-- One part. -/
theorem PullRuns.part {s t : State} {p p' : Pulling}
    (h : ∀ ts, pullPart p { s with pulling := some p, turns := ts } = { t with pulling := some p', turns := ts }) :
    PullRuns 1 s p t p' := fun k ts => by
  rw [Nat.add_comm, ← h]
  exact core_run_succ rfl k

/-! ### CONVERT in parts -/

/-- One turn of CONVERT's loop takes one part, or two where TryReceive answers none (R200). -/
theorem pullRuns_source (left k : Nat) (out : List F32) (s : State) :
    ∃ m, PullRuns m s ⟨left, .source (k + 1), out⟩ (srcPush s) ⟨left, .source k, out⟩ := by
  cases htry : (srcTry s).1 with
  | some f =>
    have hpush : srcPush s = pushRing f (srcTry s).2 := by
      rw [srcPush, srcNext, show srcTry s = (some f, (srcTry s).2) from Prod.ext htry rfl]
    refine ⟨1, .part fun ts => ?_⟩
    rw [pullPart_source, srcTry_ports, htry, hpush]
    rfl
  | none =>
    have hpush : srcPush s = pushRing (underrun s).1 (underrun s).2 := by
      rw [srcPush, srcNext, show srcTry s = (none, s) from Prod.ext htry (srcTry_none htry).2]
    have htry' : PullRuns 1 s ⟨left, .source (k + 1), out⟩ s ⟨left, .readClosed k, out⟩ := .part fun ts => by
      rw [pullPart_source, srcTry_ports, htry, (srcTry_none htry).2]
      rfl
    have hclosed : PullRuns 1 s ⟨left, .readClosed k, out⟩ (srcPush s) ⟨left, .source k, out⟩ := .part fun ts => by
      rw [hpush]
      simp only [pullPart, underrun_ports]
      rfl
    exact ⟨2, htry'.trans hclosed⟩

theorem pullRuns_sources (left : Nat) (out : List F32) (k : Nat) (s : State) :
    ∃ m, PullRuns m s ⟨left, .source k, out⟩ (srcTimes k s) ⟨left, .source 0, out⟩ := by
  induction k generalizing s with
  | zero => exact ⟨0, .refl s _⟩
  | succ k ih =>
    obtain ⟨a, ha⟩ := pullRuns_source left k out s
    obtain ⟨b, hb⟩ := ih (srcPush s)
    exact ⟨a + b, ha.trans hb⟩

/-- A CONVERT step: the phase, the loop, the frame (R203). -/
theorem pullRuns_convert (left : Nat) (out : List F32) (s : State) :
    ∃ m, PullRuns m s ⟨left + 1, .idle, out⟩ (convert s).2
      ⟨left, .idle, out ++ [(convert s).1.left, (convert s).1.right]⟩ := by
  have hphase : PullRuns 1 s ⟨left + 1, .idle, out⟩ (advancePhase s).2 ⟨left + 1, .source (advancePhase s).1, out⟩ :=
    .part fun _ => rfl
  obtain ⟨m, hloop⟩ := pullRuns_sources (left + 1) out (advancePhase s).1 (advancePhase s).2
  have hframe : PullRuns 1 (convert s).2 ⟨left + 1, .source 0, out⟩ (convert s).2
      ⟨left, .idle, out ++ [(convert s).1.left, (convert s).1.right]⟩ := .part fun _ => rfl
  exact ⟨1 + m + 1, (hphase.trans hloop).trans hframe⟩

theorem pullRuns_pull (n : Nat) (out : List F32) (s : State) :
    ∃ m, PullRuns m s ⟨n, .idle, out⟩ (pullFrames n s).2 ⟨0, .idle, out ++ (pullFrames n s).1⟩ := by
  induction n generalizing s out with
  | zero => exact ⟨0, by rw [pullFrames, List.append_nil]; exact .refl s _⟩
  | succ n ih =>
    obtain ⟨a, ha⟩ := pullRuns_convert n out s
    obtain ⟨b, hb⟩ := ih (out ++ [(convert s).1.left, (convert s).1.right]) (convert s).2
    rw [List.append_assoc] at hb
    exact ⟨a + b, ha.trans hb⟩

/-! ### The statement -/

/-- The turn that starts a PULL runs no part of it. -/
theorem step_startPull {s : State} {w : BitVec 32} {rest : List (BitVec 32)} {n : BitVec 16} (hp : s.pulling = none)
    (hport : s.consIn = w :: rest) (hd : decode (.cmd w) = .ok (.pull n)) (ts : List Turn) :
    step { s with turns := .consumerPart :: ts } =
      .next { s with consIn := rest, pulling := some ⟨n.toNat, .idle, []⟩, turns := ts } := by
  rw [step_cons, takeTurn_consumerPart (s := { s with turns := ts }) hp hport, startFor, hd]
  rfl

/-- The part after the last CONVERT puts the result out. -/
theorem step_finishPull (s : State) (out : List F32) (ts : List Turn) :
    step { s with pulling := some ⟨0, .idle, out⟩, turns := .consumerPart :: ts } =
      .next { s with pulling := none, buffer := out, turns := ts } := rfl

/-- PULL, from a state with none in progress, keeps that and the schedule (R39). -/
theorem exec_pull_ports {s : State} (hp : s.pulling = none) (n : BitVec 16) : exec (.pull n) s =
    .next { (pullFrames n.toNat s).2 with pulling := none, buffer := (pullFrames n.toNat s).1, turns := s.turns } := by
  rw [exec_pull, pullFrames_frame, ← hp]
  rfl

theorem replicate_start_finish (m : Nat) (ts : List Turn) : List.replicate (m + 1 + 1) Turn.consumerPart ++ ts =
    .consumerPart :: (List.replicate m .consumerPart ++ (.consumerPart :: ts)) := by
  rw [List.replicate_succ, List.cons_append, List.replicate_succ', List.append_assoc, List.singleton_append]

/-- Settles O50: one turn starts the PULL, its parts run it, and one more puts the result out. -/
theorem pullInPartsIsPullWhole : Obligations.PullInPartsIsPullWhole := by
  intro s w rest n ts hp hport hd
  obtain ⟨m, hrun⟩ := pullRuns_pull n.toNat [] { s with consIn := rest, turns := ts }
  refine ⟨m + 1 + 1, ?_⟩
  rw [replicate_start_finish, core_run_succ (step_startPull hp hport hd _), hrun 1 (.consumerPart :: ts),
    core_run_succ (step_finishPull _ _ ts)]
  exact (exec_pull_ports (s := { s with consIn := rest, turns := ts }) hp n).symm

end Sys2Proof.Machine
end

section
/-! PROOFS. The product rounded to nearest (R11): a magnitude packed from `m * 2 ^ e` is a significand within half a unit of
it, even where it is just half a unit away; and no pattern has a value nearer than such a significand. Settles O44. -/
namespace Sys2Proof.Machine

open Sys2Proof

/-! ### Rounding to a multiple of a unit -/

/-- `sig` units of `2 ^ scale` are `x` rounded to a whole number of them, ties to even. -/
def RoundsTo (x : ℚ) (sig : Nat) (scale : Int) : Prop :=
  |(sig : ℚ) * 2 ^ scale - x| ≤ 2 ^ scale / 2 ∧ (|(sig : ℚ) * 2 ^ scale - x| = 2 ^ scale / 2 → sig % 2 = 0)

theorem roundsTo_self (sig : Nat) (scale : Int) : RoundsTo (sig * 2 ^ scale) sig scale := by
  have hunit : (0 : ℚ) < 2 ^ scale / 2 := by positivity
  rw [RoundsTo, sub_self, abs_zero]
  exact ⟨hunit.le, fun h => absurd h hunit.ne⟩

/-- Where `roundShift` moves a number by half a unit, it answers an even one. -/
theorem roundShift_tie {m k : Nat} (h : 2 ^ k * (2 * roundShift m k) = 2 * m + 2 ^ k ∨
    2 * m = 2 ^ k * (2 * roundShift m k) + 2 ^ k) : roundShift m k % 2 = 0 := by
  have hdiv := Nat.div_add_mod m (2 ^ k)
  have hrest := Nat.mod_lt m (Nat.two_pow_pos k)
  have hup : 2 ^ k * (2 * (m / 2 ^ k + 1)) = 2 * (2 ^ k * (m / 2 ^ k)) + 2 * 2 ^ k := by ring
  have hdown : 2 ^ k * (2 * (m / 2 ^ k)) = 2 * (2 ^ k * (m / 2 ^ k)) := by ring
  unfold roundShift at h ⊢
  dsimp only at h ⊢
  split at h
  case isTrue hcond =>
    rw [if_pos hcond]
    omega
  case isFalse hcond =>
    rw [if_neg hcond]
    omega

theorem roundsTo_roundShift (m k : Nat) (scale : Int) : RoundsTo (m * 2 ^ (scale - k)) (roundShift m k) scale := by
  obtain ⟨hup, hdown⟩ := roundShift_near m k
  have hfine : (0 : ℚ) < 2 ^ (scale - k) / 2 := by positivity
  have hunit : (2 : ℚ) ^ scale / 2 = ((2 ^ k : Int) : ℚ) * (2 ^ (scale - k) / 2) := by
    rw [zpow_sub₀ two_ne_zero, zpow_natCast]
    push_cast
    field_simp
  have hdist : |(roundShift m k : ℚ) * 2 ^ scale - m * 2 ^ (scale - k)| =
      ((|2 ^ k * (2 * roundShift m k) - 2 * m| : Int) : ℚ) * (2 ^ (scale - k) / 2) :=
    calc |(roundShift m k : ℚ) * 2 ^ scale - m * 2 ^ (scale - k)|
      _ = |((2 ^ k * (2 * roundShift m k) - 2 * m : Int) : ℚ) * (2 ^ (scale - k) / 2)| := by
        congr 1
        push_cast at hunit ⊢
        linear_combination 2 * roundShift m k * hunit
      _ = _ := by rw [abs_mul, abs_of_pos hfine, Int.cast_abs]
  rw [RoundsTo, hdist, hunit, mul_le_mul_iff_of_pos_right hfine, mul_left_inj' hfine.ne', Int.cast_le, Int.cast_inj]
  refine ⟨abs_le.mpr ?_, fun h => roundShift_tie ?_⟩
  · zify at hup hdown
    constructor <;> linarith
  · zify
    rcases abs_choice ((2 : Int) ^ k * (2 * roundShift m k) - 2 * m) with hc | hc <;> rw [hc] at h
    · left; linarith
    · right; linarith

section RoundsTo
variable {x : ℚ} {sig : Nat} {scale : Int} (h : RoundsTo x sig scale)
include h

/-- Another whole number of units lies a unit away from the rounded one, so it is not nearer. -/
theorem RoundsTo.nearest {k : Nat} (hne : k ≠ sig) : |(sig : ℚ) * 2 ^ scale - x| ≤ |(k : ℚ) * 2 ^ scale - x| ∧
    (|(sig : ℚ) * 2 ^ scale - x| = |(k : ℚ) * 2 ^ scale - x| → sig % 2 = 0) := by
  obtain ⟨hhalf, htie⟩ := h
  have hunit : (0 : ℚ) < 2 ^ scale := by positivity
  have hapart : (1 : ℚ) ≤ |(k : ℚ) - sig| := by
    exact_mod_cast Int.one_le_abs (sub_ne_zero.mpr (by exact_mod_cast hne : (k : Int) ≠ sig))
  have hfar : (2 : ℚ) ^ scale ≤ |(k : ℚ) * 2 ^ scale - x| + |(sig : ℚ) * 2 ^ scale - x| :=
    calc (2 : ℚ) ^ scale ≤ |(k : ℚ) - sig| * 2 ^ scale := le_mul_of_one_le_left hunit.le hapart
      _ = |((k : ℚ) * 2 ^ scale - x) - (sig * 2 ^ scale - x)| := by
        rw [sub_sub_sub_cancel_right, ← sub_mul, abs_mul, abs_of_pos hunit]
      _ ≤ _ := abs_sub _ _
  exact ⟨by linarith, fun heq => htie (by linarith)⟩

theorem RoundsTo.le_nearest (k : Nat) : |(sig : ℚ) * 2 ^ scale - x| ≤ |(k : ℚ) * 2 ^ scale - x| := by
  rcases eq_or_ne k sig with rfl | hne
  · exact le_rfl
  · exact (h.nearest hne).1

/-- Rounding keeps below a whole number of units that lies half a unit above. -/
theorem RoundsTo.lt_of_lt {k : Nat} (hx : x < (k - 1 / 2) * 2 ^ scale) : sig < k := by
  have hunit : (0 : ℚ) < 2 ^ scale := by positivity
  have hup := (abs_le.mp h.1).2
  have : (sig : ℚ) * 2 ^ scale < k * 2 ^ scale := by linarith
  exact_mod_cast lt_of_mul_lt_mul_right this hunit.le

theorem RoundsTo.ge_of_le {k : Nat} (hx : k * 2 ^ scale ≤ x) : k ≤ sig := by
  have hunit : (0 : ℚ) < 2 ^ scale := by positivity
  have hdown := (abs_le.mp h.1).1
  have : (k : ℚ) * 2 ^ scale < (sig + 1) * 2 ^ scale := by linarith
  exact Nat.lt_succ_iff.mp (by exact_mod_cast lt_of_mul_lt_mul_right this hunit.le)

end RoundsTo

/-! ### The packed magnitude -/

/-- `sig` units of `2 ^ scale` are the binary32 rounding of `x`: the unit is the one that leaves 24 bits, or the least. -/
def Rounding (x : ℚ) (sig : Nat) (scale : Int) : Prop :=
  RoundsTo x sig scale ∧ -149 ≤ scale ∧ x < 2 ^ 24 * 2 ^ scale ∧ (scale = -149 ∨ 2 ^ 23 * 2 ^ scale ≤ x)

/-- The scale that `packMagnitude` takes leaves 24 bits. -/
theorem packScale_bounds {m : Nat} {e scale : Int} (hm : m ≠ 0) (h : max (e + m.log2 - 23) (-149) = scale) :
    -149 ≤ scale ∧ (m : ℚ) * 2 ^ e < 2 ^ 24 * 2 ^ scale ∧ (scale = -149 ∨ 2 ^ 23 * 2 ^ scale ≤ (m : ℚ) * 2 ^ e) := by
  have hhigh : (m : ℚ) < 2 ^ ((m.log2 : Int) + 1) := by exact_mod_cast Nat.lt_log2_self (n := m)
  have hlow : (2 : ℚ) ^ (m.log2 : Int) ≤ m := by exact_mod_cast Nat.log2_self_le hm
  have hle : (m.log2 : Int) + 1 + e ≤ 24 + scale := by omega
  refine ⟨by omega, ?_, ?_⟩
  · calc (m : ℚ) * 2 ^ e < 2 ^ ((m.log2 : Int) + 1) * 2 ^ e := by gcongr
      _ = 2 ^ ((m.log2 : Int) + 1 + e) := (zpow_add₀ two_ne_zero _ _).symm
      _ ≤ 2 ^ ((24 : Int) + scale) := zpow_le_zpow_right₀ one_le_two hle
      _ = 2 ^ 24 * 2 ^ scale := zpow_add₀ two_ne_zero _ _
  · rcases eq_or_ne scale (-149) with hmin | hmin
    · exact .inl hmin
    · right
      have heq : (23 : Int) + scale = m.log2 + e := by omega
      calc (2 : ℚ) ^ 23 * 2 ^ scale = 2 ^ ((23 : Int) + scale) := (zpow_add₀ two_ne_zero _ _).symm
        _ = 2 ^ (m.log2 : Int) * 2 ^ e := by rw [heq, zpow_add₀ two_ne_zero]
        _ ≤ m * 2 ^ e := by gcongr

theorem packMagnitude_rounding (m : Nat) (e : Int) : ∃ sig scale, Rounding (m * 2 ^ e) sig scale ∧
    packMagnitude m e = min (magOf sig scale) 0x7F800000 := by
  rcases eq_or_ne m 0 with rfl | hm
  · refine ⟨0, -149, ⟨by simpa using roundsTo_self 0 (-149), le_rfl, by norm_num, .inl rfl⟩, ?_⟩
    rw [packMagnitude, if_pos rfl]
    exact (Nat.zero_min _).symm
  obtain ⟨scale, hscale⟩ : ∃ scale, max (e + m.log2 - 23) (-149) = scale := ⟨_, rfl⟩
  have hbounds := packScale_bounds hm hscale
  rcases le_or_gt scale e with hle | hgt
  · obtain ⟨k, rfl⟩ := Int.le.dest hle
    refine ⟨m * 2 ^ k, scale, ⟨?_, hbounds⟩, ?_⟩
    · have hexact : (m : ℚ) * 2 ^ (scale + k) = (m * 2 ^ k : Nat) * 2 ^ scale := by
        rw [zpow_add₀ two_ne_zero, zpow_natCast]
        push_cast
        ring
      rw [hexact]
      exact roundsTo_self _ _
    · rw [packMagnitude, if_neg hm]
      simp only [hscale, if_pos hle, add_sub_cancel_left, Int.toNat_natCast, magOf]
  · obtain ⟨k, rfl⟩ : ∃ k : Nat, e = scale - k := ⟨(scale - e).toNat, by omega⟩
    exact ⟨roundShift m k, scale, ⟨roundsTo_roundShift m k scale, hbounds⟩, packMagnitude_round hm (by omega) hscale⟩

/-- A significand that rounding carried to 2^24 is canonical at the next scale, with the same magnitude and value. -/
theorem canonical_carry {sig : Nat} {scale : Int} (hmin : -149 ≤ scale) (hsig : sig ≤ 2 ^ 24)
    (hnorm : scale = -149 ∨ 2 ^ 23 ≤ sig) :
    ∃ m e, Canonical m e ∧ magOf m e = magOf sig scale ∧ (m : ℚ) * 2 ^ e = sig * 2 ^ scale := by
  rcases Nat.lt_or_eq_of_le hsig with hlt | rfl
  · exact ⟨sig, scale, ⟨hlt, hmin, hnorm⟩, rfl, rfl⟩
  · refine ⟨2 ^ 23, scale + 1, by unfold Canonical; omega, by unfold magOf; omega, ?_⟩
    rw [zpow_add_one₀ two_ne_zero]
    push_cast
    ring

section Rounding
variable {x : ℚ} {sig : Nat} {scale : Int} (h : Rounding x sig scale)
include h

theorem Rounding.sig_bounds : sig ≤ 2 ^ 24 ∧ (scale = -149 ∨ 2 ^ 23 ≤ sig) := by
  obtain ⟨hround, -, hlt, hnorm⟩ := h
  have hunit : (0 : ℚ) < 2 ^ scale := by positivity
  refine ⟨Nat.lt_succ_iff.mp (hround.lt_of_lt ?_), hnorm.imp id fun hge => hround.ge_of_le (by exact_mod_cast hge)⟩
  push_cast
  linarith

/-- Below the overflow threshold the magnitude is a finite one. -/
theorem Rounding.magOf_lt (hx : x < 2 ^ 128 - 2 ^ 103) : magOf sig scale < 0x7F800000 := by
  obtain ⟨hsig, -⟩ := h.sig_bounds
  obtain ⟨hround, hmin, -, hnorm⟩ := h
  have hscale : scale < 105 := by
    by_contra hge
    have hlow : (2 : ℚ) ^ (105 : Int) ≤ 2 ^ scale := zpow_le_zpow_right₀ one_le_two (by omega)
    rcases hnorm with hnorm | hnorm
    · omega
    · norm_num at hlow hx hnorm
      linarith
  have htop : scale = 104 → sig < 2 ^ 24 := by
    rintro rfl
    refine hround.lt_of_lt ?_
    norm_num at hx ⊢
    linarith
  unfold magOf
  omega

theorem Rounding.abs_f32Value {z : F32} (hz : f32Mag z = magOf sig scale) : |f32Value z| = sig * 2 ^ scale := by
  obtain ⟨hsig, hnorm⟩ := h.sig_bounds
  obtain ⟨m, e, hc, hmag, hvalue⟩ := canonical_carry h.2.1 hsig hnorm
  obtain ⟨hm, he⟩ := f32_sig_scale hc (hz.trans hmag.symm)
  rw [Machine.abs_f32Value, hm, he, hvalue]

/-- No pattern's magnitude is nearer: at the unit's scale or above it is a whole number of units, and below it lies under
the least normal significand, which is a whole number of units at or under `x`. -/
theorem Rounding.nearest (y : F32) (hne : |f32Value y| ≠ sig * 2 ^ scale) :
    |(sig : ℚ) * 2 ^ scale - x| ≤ |(|f32Value y|) - x| ∧
    (|(sig : ℚ) * 2 ^ scale - x| = |(|f32Value y|) - x| → sig % 2 = 0) := by
  obtain ⟨hround, -, -, hnorm⟩ := h
  obtain ⟨hlt, hymin, -⟩ := f32_canonical y
  rcases le_or_gt scale (f32Scale y) with hle | hgt
  · obtain ⟨k, hk⟩ := Int.le.dest hle
    have hunits : |f32Value y| = (f32Sig y * 2 ^ k : Nat) * 2 ^ scale := by
      rw [Machine.abs_f32Value, ← hk, zpow_add₀ two_ne_zero, zpow_natCast]
      push_cast
      ring
    rw [hunits] at hne ⊢
    exact hround.nearest fun heq => hne (by rw [heq])
  · obtain hnorm := hnorm.resolve_left (by omega)
    have hbelow : |f32Value y| < 2 ^ 23 * 2 ^ scale :=
      calc |f32Value y| = f32Sig y * 2 ^ f32Scale y := Machine.abs_f32Value y
        _ < 2 ^ 24 * 2 ^ f32Scale y := by gcongr; exact_mod_cast hlt
        _ = 2 ^ 23 * 2 ^ (f32Scale y + 1) := by rw [zpow_add_one₀ two_ne_zero]; ring
        _ ≤ 2 ^ 23 * 2 ^ scale := by gcongr; norm_num; exact hgt
    have hleast := hround.le_nearest (2 ^ 23)
    rw [Nat.cast_pow, Nat.cast_ofNat, abs_of_nonpos (sub_nonpos.mpr hnorm)] at hleast
    have hfar : |(sig : ℚ) * 2 ^ scale - x| < |(|f32Value y|) - x| := by
      rw [abs_of_nonpos (sub_nonpos.mpr (hbelow.le.trans hnorm))]
      linarith
    exact ⟨hfar.le, fun heq => absurd heq hfar.ne⟩

theorem Rounding.even_of_zero (hx : x = 0) : sig % 2 = 0 := by
  have hpos : (0 : ℚ) < 2 ^ scale := by positivity
  have hzero : sig < 1 := h.1.lt_of_lt (by rw [hx]; push_cast; linarith)
  omega

end Rounding

/-! ### Signs -/

/-- The factor of a sign bit. -/
def signFactor (sign : BitVec 1) : ℚ := if sign = 1#1 then -1 else 1

theorem f32Value_eq_sign_mul_abs (x : F32) : f32Value x = signFactor (f32Sign x) * |f32Value x| := by
  rw [abs_f32Value, ← mul_assoc]
  rfl

theorem abs_signFactor (sign : BitVec 1) : |signFactor sign| = 1 := by
  unfold signFactor
  split <;> simp

theorem signFactor_xor (s t : BitVec 1) : signFactor (s ^^^ t) = signFactor s * signFactor t := by
  have hbit : ∀ u : BitVec 1, u = 0#1 ∨ u = 1#1 := by decide
  rcases hbit s with rfl | rfl <;> rcases hbit t with rfl | rfl <;> simp [signFactor]

/-- Values of one sign are as far apart as their magnitudes. -/
theorem abs_sub_of_sign {p q sign : ℚ} (hsign : |sign| = 1) (hp : p = sign * |p|) (hq : q = sign * |q|) :
    |p - q| = |(|p|) - (|q|)| :=
  calc |p - q| = |sign * (|p| - |q|)| := by rw [mul_sub, ← hp, ← hq]
    _ = |(|p|) - (|q|)| := by rw [abs_mul, hsign, one_mul]

/-- A non-zero value and its opposite are equally far from zero only. -/
theorem eq_zero_of_tie_neg {z p : ℚ} (htie : |z - p| = |-z - p|) (hne : -z ≠ z) : p = 0 := by
  rcases abs_eq_abs.mp htie with h | h
  · exact absurd (by linarith) hne
  · linarith

/-! ### The statement -/

theorem f32Frac_mod_two {z : F32} {sig : Nat} {scale : Int} (hz : f32Mag z = magOf sig scale) : f32Frac z % 2 = sig % 2 := by
  rw [f32Mag_eq_fields, magOf] at hz
  omega

/-- A pattern of the product's sign and of the magnitude of a rounding is nearest to the product, ties to even. -/
theorem nearest_of_rounding {p : ℚ} {z y : F32} {sig : Nat} {scale : Int} (h : Rounding |p| sig scale)
    (hz : f32Mag z = magOf sig scale) (hp : p = signFactor (f32Sign z) * |p|) :
    |f32Value z - p| ≤ |f32Value y - p| ∧
    (|f32Value z - p| = |f32Value y - p| → f32Value y ≠ f32Value z → f32Frac z % 2 = 0) := by
  have hvalue := h.abs_f32Value hz
  have hdist := abs_sub_of_sign (abs_signFactor _) (f32Value_eq_sign_mul_abs z) hp
  have hy : |(|f32Value y|) - (|p|)| ≤ |f32Value y - p| := abs_abs_sub_abs_le _ _
  rw [f32Frac_mod_two hz]
  by_cases hsame : |f32Value y| = |f32Value z|
  · rw [hsame, ← hdist] at hy
    refine ⟨hy, fun htie hne => h.even_of_zero (abs_eq_zero.mpr ?_)⟩
    have hneg : f32Value y = -f32Value z := (abs_eq_abs.mp hsame).resolve_left hne
    rw [hneg] at htie hne
    exact eq_zero_of_tie_neg htie hne
  · rw [hvalue] at hsame
    obtain ⟨hnear, heven⟩ := h.nearest y hsame
    rw [← hvalue, ← hdist] at hnear heven
    exact ⟨hnear.trans hy, fun htie _ => heven (le_antisymm hnear (htie ▸ hy))⟩

theorem abs_f32Value_mul (a b : F32) :
    |f32Value a * f32Value b| = (f32Sig a * f32Sig b : Nat) * 2 ^ (f32Scale a + f32Scale b) := by
  rw [abs_mul, abs_f32Value, abs_f32Value, zpow_add₀ two_ne_zero]
  push_cast
  ring

theorem f32Value_mul_sign (a b : F32) :
    f32Value a * f32Value b = signFactor (f32Sign a ^^^ f32Sign b) * |f32Value a * f32Value b| := by
  rw [signFactor_xor, abs_mul, mul_mul_mul_comm, ← f32Value_eq_sign_mul_abs, ← f32Value_eq_sign_mul_abs]

/-- Settles O44: the magnitude that `fmul32` packs is a rounding of the product's. -/
theorem productIsRoundedToNearestEven : Obligations.ProductIsRoundedToNearestEven := by
  intro a b ha hb hbound
  obtain ⟨sig, scale, hround, hpack⟩ := packMagnitude_rounding (f32Sig a * f32Sig b) (f32Scale a + f32Scale b)
  rw [← abs_f32Value_mul] at hround
  have hfinite := hround.magOf_lt hbound
  have h31 : magOf sig scale < 2 ^ 31 := by omega
  rw [fmul32_finite ha hb, hpack, min_eq_left hfinite.le]
  have hsign := f32Sign_packF32 (f32Sign a ^^^ f32Sign b) h31
  have hmag := f32Mag_packF32 (f32Sign a ^^^ f32Sign b) h31
  refine ⟨(f32Finite_iff_mag _).mpr (by rwa [hmag]), hsign, fun y _ => nearest_of_rounding hround hmag ?_⟩
  rw [hsign]
  exact f32Value_mul_sign a b

end Sys2Proof.Machine
end
